-- ==== Sys2Proof/Word.lean ====
section
/-! DEFINITION. The word types: one bit, a bit vector in arrival order, and the command word. -/

namespace Sys2Proof

/-- A bit vector of the data path (00_scope R9): index 0 is the bit received first.
The document's "one-bit-per-byte" form is the same thing, a bit is a bit. -/
abbrev Bits := List Bool

/-- `CMD_WIDTH` (00_scope R8, 30_encoding R80). -/
abbrev Config.cmdWidth : Nat := 192

/-- One command word of the host's command port (30_encoding R80). -/
abbrev CmdWord := BitVec Config.cmdWidth

/-- A soft symbol or a path metric: the only signed numbers of the core (41_codecs R143). -/
abbrev Soft := Int

end Sys2Proof
end

