-- ==== Sys2Proof/Config.lean ====
section
/-! DEFINITION. What a configuration of TBS-CORE is made of: the names its tables are indexed by, the record
types of its tables, and the OPEN parameters of 00_scope R8 (no value given: constants without a body).
The parameters the spec gives a value or a default stand in Machine/Params.lean and Machine/Layouts.lean. -/

namespace Sys2Proof

/-- Training-sequence types (30_encoding R84); `norm3` and `ext` select no operation. -/
inductive TrainType
  | norm1 | norm2 | norm3 | sync | ext
deriving DecidableEq, Repr, Inhabited

/-- Sub-block types (30_encoding R88). -/
inductive SubBlock
  | sb1 | sb2 | ndb | bbk | schHu | schF
deriving DecidableEq, Repr, Inhabited

/-- The stages at which a voice block can be decrypted (43_splitter_lower_mac R201): on the 432 soft type-4
symbols inside the core, or later, inside `VOICE_CHAIN`, outside it. -/
inductive VoiceStage
  | softType4 | insideVoiceChain
deriving DecidableEq, Repr, Inhabited

/-- Termination modes of the Viterbi decoder (41_codecs R146). -/
inductive Termination
  | flush | truncation | tailBiting
deriving DecidableEq, Repr, Inhabited

/-- One field of a layout table: its offset from the first bit and its width. -/
structure Field where
  off : Nat
  width : Nat
deriving DecidableEq, Repr, Inhabited

/-- What an address of a MAC-RESOURCE holds (one row of the table of 30_encoding R94), in this order. -/
structure AddrContent where
  ssi : Bool
  eventLabel : Bool
  usageMarker : Bool
deriving DecidableEq, Repr, Inhabited

/-- One row of `BLK_PARAMS` (30_encoding R89): `K` = `type345_bits`, `n2` = `type2_bits`, `n1` = `type1_bits`,
`a` = the interleaver step, `none` for a block that is neither interleaved nor coded. -/
structure BlockParams where
  K : Nat
  n2 : Nat
  n1 : Nat
  a : Option Nat
deriving DecidableEq, Repr, Inhabited

/-- A puncturer (41_codecs R140): puncture positions `P` (indexed from 1 in the spec), skip count `t`, `period`
and the index-remap function. -/
structure Puncturer where
  P : List Nat
  t : Nat
  period : Nat
  remap : Nat → Nat
deriving Inhabited

/-- Configuration of the Viterbi decoder (41_codecs R146): `N` outputs per input bit, constraint length `K`,
`N` generator masks of `K` bits, termination. -/
structure ViterbiCfg where
  N : Nat
  K : Nat
  gen : List Nat
  term : Termination
deriving DecidableEq, Repr, Inhabited

namespace Config

/-- `RM_G`, parity part (41_codecs R124): the 16 parity bits of generator row `i`. OPEN (log 10). -/
opaque rmParity : Nat → BitVec 16

/-- `TB5` (44_crypto R215): carrier number, location area, colour code, key to the extended cipher key.
OPEN (log 10). -/
opaque tb5 : BitVec 12 → BitVec 14 → BitVec 6 → BitVec 80 → BitVec 80

/-- Byte `j` of the output of `KSG_TEA1` for an IV and an ECK (44_crypto R216). OPEN (log 10, log 11). -/
opaque ksgTea1Byte : BitVec 32 → BitVec 80 → Nat → BitVec 8

/-- Byte `j` of the output of `KSG_TEA2` (44_crypto R216). OPEN (log 10, log 11). -/
opaque ksgTea2Byte : BitVec 32 → BitVec 80 → Nat → BitVec 8

/-- Byte `j` of the output of `KSG_TEA3` (44_crypto R216). OPEN (log 10, log 11). -/
opaque ksgTea3Byte : BitVec 32 → BitVec 80 → Nat → BitVec 8

/-- `NET_CAP` less one: the capacity is a natural of at least 1 (93_implementation_defined section 2).
OPEN (log 10). -/
opaque netCapLessOne : Nat

/-- `KEY_CAP` less one. OPEN (log 10). -/
opaque keyCapLessOne : Nat

/-- `FRAG_BUF_CAP` (45_upper_mac R251, R253): a number of bits, or `none` for unbounded. OPEN (log 10). -/
opaque fragBufCap : Option Nat

/-- `PUNCT_VOICE[*]` (41_codecs R141): used by no rule of the core. OPEN (log 10). -/
opaque punctVoice : Nat → Puncturer

/-- `VOICE_CHAIN` (43_splitter_lower_mac R200): soft symbols to PCM, outside the core, used by no rule of it.
OPEN (log 10). The spec says only "PCM": 16 bits a sample is the model's DESIGN CHOICE (log 37). -/
opaque voiceChain : List Soft → List (BitVec 16)

/-- `NET_CAP`. -/
def netCap : Nat := netCapLessOne + 1

/-- `KEY_CAP`. -/
def keyCap : Nat := keyCapLessOne + 1

end Config

end Sys2Proof
end

