-- ==== Sys2Proof/Syntax.lean ====
section
/-! DEFINITION. The instructions: one constructor per row of spec/opcode_table.json, and the words that select
them. "Instruction" is an operation selected by an encoding (00_scope R4); the five encoding spaces are those of
30_encoding. -/

namespace Sys2Proof

/-- The operations of TBS-CORE, in the order of spec/opcode_table.json. An operation inside the pipeline takes
its operands from the state (M1, the PDU buffer, the snapshot), so its constructor carries only the bits of its
own encoding. -/
inductive Instr
  -- host command words, 30_encoding R80, R81
  | nop
  | reset
  | pushBit (b : Bool)
  | loadNet (mcc mnc : BitVec 16) (ksgType securityClass : BitVec 8)
  | loadKey (mcc mnc : BitVec 16) (addr : BitVec 32) (keyType : BitVec 8) (keyNum : BitVec 32) (key : BitVec 80)
  -- training sequences, 30_encoding R84, R85
  | tsqSync
  | tsqNorm1
  | tsqNorm2
  -- sub-block types, 30_encoding R88
  | sb1
  | sb2
  | ndb
  | bbk
  | schHu
  | schF
  -- MAC PDU prefixes, 30_encoding R92
  | macResource
  | macFrag
  | macEnd
  | broadcastSysinfo
  | broadcastAccessDefine
  | broadcastOther (b : Bool)
  | macSupplementary
  -- length indication of MAC-RESOURCE, 30_encoding R95
  | liOctets (l : BitVec 6)
  | liSecondHalfStolen
  | liStartOfFragmentation
  -- KSG type codes, 30_encoding R101
  | ksgTea1
  | ksgTea2
  | ksgTea3
  | ksgUnsupported (k : BitVec 8)
deriving DecidableEq, Repr, Inhabited

/-- A word that selects an operation, tagged with the encoding space it belongs to: the command port of the host
(30_encoding R80), or a selector that stands inside the stream or a table. Only `command` words reach the core
from outside (46_host_commands R270); the others let one operation be selected by itself (log 1). -/
inductive PortWord
  | command (w : CmdWord)
  | training (pattern : Bits)
  | subBlock (code : BitVec 3)
  | pdu (bits : Bits)
  | lengthInd (li : BitVec 6)
  | ksg (code : BitVec 8)
deriving DecidableEq, Repr, Inhabited

/-- A host command word, as opposed to a selector inside the pipeline. -/
def PortWord.isCommand : PortWord → Bool
  | .command _ => true
  | _ => false

end Sys2Proof
end

