-- ==== Sys2Proof/Machine/Bits.lean ====
section
/-! DEFINITION. Notation of 00_scope R9 to R11: slices, fields read most significant bit first, and their inverse. -/

namespace Sys2Proof

/-- `v[a +: w]` (00_scope R9); every use has `a + w ≤ len v`. -/
def slice {α : Type} (v : List α) (a w : Nat) : List α := (v.drop a).take w

/-- `v[i]` for a bit that is there; every use has `i < len v` (log 22). -/
def bitAt (v : Bits) (i : Nat) : Bool := v.getD i false

/-- `uint v` (00_scope R10): index 0 is the most significant bit. -/
def uint (v : Bits) : Nat := v.foldl (fun n b => 2 * n + b.toNat) 0

/-- `bits_N x` (00_scope R10): the inverse of `uint` on `N`-bit vectors. -/
def bitsN (n x : Nat) : Bits := (List.range n).map fun i => x.testBit (n - 1 - i)

/-- The unsigned field `f` of a layout table (00_scope R10), as a `w`-bit register holds it. -/
def readField (w : Nat) (f : Field) (v : Bits) : BitVec w := BitVec.ofNat w (uint (slice v f.off f.width))

/-- A one-bit field of a layout table. -/
def readFlag (f : Field) (v : Bits) : Bool := bitAt v f.off

/-- The number of positions where two vectors of equal length differ (42_burst_sync R162). -/
def hamming : Bits → Bits → Nat
  | a :: v, b :: u => (if a = b then 0 else 1) + hamming v u
  | _, _ => 0

/-- `v XOR k` over the positions both have; bits of `v` that no bit of `k` meets stay as they are. -/
def xorBits : Bits → Bits → Bits
  | b :: v, k :: ks => (b ^^ k) :: xorBits v ks
  | v, [] => v
  | [], _ => []

end Sys2Proof
end

