-- ==== Sys2Proof/Machine/Params.lean ====
section
/-! DEFINITION. The parameters of 00_scope R8 that the spec gives a value or a default, each under its own name:
configuration, never a literal inside a rule (log 12, log 13). -/

namespace Sys2Proof.Config

/-! The command word (30_encoding R80, R81, decision D1; log 13): its parts, the least significant bit of each operand
field, and the opcodes. -/

/-- The width of the opcode, on top of the word. -/
abbrev cmdOpcodeBits : Nat := 8
/-- The width of the operands, below it. -/
abbrev cmdOperandBits : Nat := 184
/-- The bits of format `CB` that must be zero, above `b`. -/
abbrev cbZeroBits : Nat := 183
/-- The bits of format `CN` that must be zero, below the fields. -/
abbrev cnZeroBits : Nat := 136
def cmdMccLsb : Nat := 168
def cmdMncLsb : Nat := 152
def cnKsgTypeLsb : Nat := 144
def cnSecurityClassLsb : Nat := 136
def ckAddrLsb : Nat := 120
def ckKeyTypeLsb : Nat := 112
def ckKeyNumLsb : Nat := 80
def ckKeyLsb : Nat := 0
def opcodeNop : BitVec 8 := 0x00
def opcodeReset : BitVec 8 := 0x01
def opcodePushBit : BitVec 8 := 0x02
def opcodeLoadNet : BitVec 8 := 0x10
def opcodeLoadKey : BitVec 8 := 0x11

/-- `BITS_PER_TS`: 255 symbols of 2 bits. -/
def bitsPerTs : Nat := 510
/-- `OFF_TSQ_SYNC`. -/
def offTsqSync : Nat := 214
/-- `OFF_TSQ_NORM`. -/
def offTsqNorm : Nat := 244
/-- `FS_ADVANCE`, derived: from the first bit of a SYNC match to the next timeslot (42_burst_sync R164). -/
def fsAdvance : Nat := bitsPerTs - offTsqSync
/-- `KS_HALFSLOT_SKIP`. -/
def ksHalfslotSkip : Nat := 216
/-- `N203`, the age at which a fragment slot is cleaned up (45_upper_mac R258). -/
def n203 : Nat := 6
/-- `CRC_SEED`. -/
def crcSeed : BitVec 16 := 0xFFFF
/-- `CRC_OK`, the residue of an accepted block. -/
def crcResidue : BitVec 16 := 0x1D0F
/-- `CRC_POLY`, x^16 + x^12 + x^5 + 1 (log 13). -/
def crcPoly : BitVec 16 := 0x1021
/-- What the register is XORed with before it is sent as check bits (41_codecs R123; log 13): all ones, the
complement. -/
def crcXorOut : BitVec 16 := 0xFFFF
/-- `LFSR_TAPS` (log 13): tap `y` reads register bit `32 - y`. -/
def lfsrTaps : List Nat := [32, 26, 23, 22, 16, 12, 11, 10, 8, 7, 5, 4, 2, 1]
/-- `SCRAMB_CONST` (log 13). -/
def scrambConst : Nat := 3
/-- The packing of `scramb_init` (41_codecs R130; log 13): the shift of the network code over the colour code. -/
def scrambMncShift : Nat := 6
/-- The packing of `scramb_init`: the shift of the country code. -/
def scrambMccShift : Nat := 20
/-- The packing of `scramb_init`: the shift of the identity over `SCRAMB_CONST`. -/
def scrambIdShift : Nat := 2
/-- `MCC_MASK`. -/
def mccMask : Nat := 0x3FF
/-- `MNC_MASK`. -/
def mncMask : Nat := 0x3FFF
/-- `CC_MASK`. -/
def ccMask : Nat := 0x3F
/-- `CONV_N`. -/
def convN : Nat := 4
/-- `CONV_K`. -/
def convK : Nat := 5
/-- `CONV_GEN` (41_codecs R138, R147; log 13): bit `K - 1 - m` of a mask is the coefficient of D^m, so G1 to G4
are 0x19, 0x17, 0x1D, 0x1B. -/
def convGen : List Nat := [0x19, 0x17, 0x1D, 0x1B]
/-- The number of tail bits a sender puts behind the check bits (41_codecs R139; log 13). -/
def convTailBits : Nat := 4
/-- `PUNCT_2_3` (41_codecs R141; log 13). -/
def punct23 : Puncturer := { P := [1, 2, 5], t := 3, period := 8, remap := id }
/-- `PUNCT_1_3` (41_codecs R141; log 13). -/
def punct13 : Puncturer := { P := [1, 2, 3, 5, 6, 7], t := 6, period := 8, remap := id }
/-- `SOFT_ZERO`. -/
def softZero : Soft := 127
/-- `SOFT_ONE`. -/
def softOne : Soft := -127
/-- `SOFT_ERASED`. -/
def softErased : Soft := 0
/-- Training-sequence type codes (30_encoding R84; log 13). -/
def trainTypeCode : TrainType → Nat
  | .norm1 => 0
  | .norm2 => 1
  | .norm3 => 2
  | .sync => 3
  | .ext => 4
/-- `TSQ_*` (30_encoding R85; log 13), index 0 first; the spec gives no pattern for `EXT`. -/
def tsq : TrainType → Option Bits
  | .sync => some (bitsN 38 0b11000001100111001110100111000001100111)
  | .norm1 => some (bitsN 22 0b1101000011101001110100)
  | .norm2 => some (bitsN 22 0b0111101001000011011110)
  | .norm3 => some (bitsN 22 0b1011011100000110101101)
  | .ext => none
/-- `TSQ_MAX_ERR`: an exact match. -/
def tsqMaxErr : Nat := 0
/-- The length of the SYNC pattern less one: what an unlocked synchronizer retains (42_burst_sync R163). -/
def unlockedKeep : Nat := 37
/-- `BLK_PARAMS` (30_encoding R89; log 13). -/
def blockParams : SubBlock → BlockParams
  | .sb1 => { K := 120, n2 := 80, n1 := 60, a := some 11 }
  | .sb2 => { K := 216, n2 := 144, n1 := 124, a := some 101 }
  | .ndb => { K := 216, n2 := 144, n1 := 124, a := some 101 }
  | .bbk => { K := 30, n2 := 30, n1 := 14, a := none }
  | .schHu => { K := 168, n2 := 112, n1 := 92, a := some 13 }
  | .schF => { K := 432, n2 := 288, n1 := 268, a := some 103 }
/-- `BURST_MAP_SYNC` (30_encoding R86; log 13): the synchronization block 1. -/
def mapSyncSb1 : Field := { off := 94, width := 120 }
/-- `BURST_MAP_SYNC`: the broadcast block. -/
def mapSyncBbk : Field := { off := 252, width := 30 }
/-- `BURST_MAP_SYNC`: block 2. -/
def mapSyncSb2 : Field := { off := 282, width := 216 }
/-- `BURST_MAP_NORM` (30_encoding R87; log 13): block 1. -/
def mapNormBlk1 : Field := { off := 14, width := 216 }
/-- `BURST_MAP_NORM`: broadcast bits, first part. -/
def mapNormBbk1 : Field := { off := 230, width := 14 }
/-- `BURST_MAP_NORM`: broadcast bits, second part. -/
def mapNormBbk2 : Field := { off := 266, width := 16 }
/-- `BURST_MAP_NORM`: block 2. -/
def mapNormBlk2 : Field := { off := 282, width := 216 }
/-- Keystream bytes generated per call: one timeslot of 432 bits (44_crypto R218). -/
def ksBytes : Nat := 54
/-- `IV_PACK`, default of 44_crypto R214 (log 12). -/
def ivPack (tn fn mn hn dir : Nat) : BitVec 32 :=
  BitVec.ofNat 32 ((tn - 1) ||| (fn <<< 2) ||| (mn <<< 7) ||| ((hn &&& 0x7FFF) <<< 13) ||| (dir <<< 28))
/-- `KSG_CODES` (30_encoding R101; log 13): unknown; 9 to 255 are unassigned. -/
def ksgCodeUnknown : BitVec 8 := 0
/-- `KSG_CODES`: the code that selects `KSG_TEA1`. -/
def ksgCodeTea1 : BitVec 8 := 1
/-- `KSG_CODES`: the code that selects `KSG_TEA2`. -/
def ksgCodeTea2 : BitVec 8 := 2
/-- `KSG_CODES`: the code that selects `KSG_TEA3`. -/
def ksgCodeTea3 : BitVec 8 := 3
/-- `KSG_CODES`: TEA4 to TEA7 and proprietary, explicitly unsupported (44_crypto R216). -/
def ksgCodeTea4 : BitVec 8 := 4
def ksgCodeTea5 : BitVec 8 := 5
def ksgCodeTea6 : BitVec 8 := 6
def ksgCodeTea7 : BitVec 8 := 7
def ksgCodeProprietary : BitVec 8 := 8
/-- `SECCLASS_CODES` (30_encoding R103; log 13): undefined. No rule reads a security class; it is stored and shown. -/
def securityClassUndefined : BitVec 8 := 0
/-- `SECCLASS_CODES`: class 1 (clear). -/
def securityClass1 : BitVec 8 := 1
/-- `SECCLASS_CODES`: class 2 (SCK). -/
def securityClass2 : BitVec 8 := 2
/-- `SECCLASS_CODES`: class 3 (CCK and DCK). -/
def securityClass3 : BitVec 8 := 3
/-- `KEYTYPE_CODES` (30_encoding R102; log 13): undefined. -/
def keyTypeUndefined : BitVec 8 := 0
/-- `KEYTYPE_CODES`: DCK. -/
def keyTypeDck : BitVec 8 := 1
/-- `KEYTYPE_CODES`: MGCK. -/
def keyTypeMgck : BitVec 8 := 2
/-- `KEYTYPE_CODES`: CCK/SCK, the one type a pipeline rule looks up. -/
def keyTypeCck : BitVec 8 := 4
/-- `KEYTYPE_CODES`: GCK. -/
def keyTypeGck : BitVec 8 := 8
/-- `BITBUF_CAP`; any value of at least 510 behaves the same (10_state R22). -/
def bitbufCap : Nat := 1024
/-- `MIN_PDU_BITS` (45_upper_mac R231). -/
def minPduBits : Nat := 16
/-- `VOICE_DECRYPT_POINT`, default of 43_splitter_lower_mac R201 (log 12, log 35). -/
def voiceDecryptPoint : VoiceStage := .softType4
/-- `TIME_RANGES`: symbols in a timeslot, timeslots in a frame, frames in a multiframe, multiframes in a
hyperframe (40_tdma_time R110). -/
def symbolsPerSlot : Nat := 255
def slotsPerFrame : Nat := 4
def framesPerMultiframe : Nat := 18
def multiframesPerHyperframe : Nat := 60

end Sys2Proof.Config
end

