-- ==== Sys2Proof/Machine/Layouts.lean ====
section
/-! DEFINITION. `PDU_LAYOUTS` (30_encoding R90 to R100, R109): the field tables of the PDUs and the length of the
channel allocation element. General knowledge of the air interface; configuration (log 13). -/

namespace Sys2Proof.Config

/-! MAC PDU type prefixes (30_encoding R92). -/

def prefixResource : Bits := [false, false]
def prefixFrag : Bits := [false, true, false]
def prefixEnd : Bits := [false, true, true]
def prefixSysinfo : Bits := [true, false, false, false]
def prefixAccessDefine : Bits := [true, false, false, true]
/-- BROADCAST types `10` and `11`. -/
def prefixOther (b : Bool) : Bits := [true, false, true, b]
def prefixSupplementary : Bits := [true, true]

/-- SYNC PDU (30_encoding R90), 60 bits. -/
def syncSystemCode : Field := { off := 0, width := 4 }
def syncColourCode : Field := { off := 4, width := 6 }
def syncTimeslot : Field := { off := 10, width := 2 }
def syncFrame : Field := { off := 12, width := 5 }
def syncMultiframe : Field := { off := 17, width := 6 }
def syncSharingMode : Field := { off := 23, width := 2 }
def syncReservedFrames : Field := { off := 25, width := 3 }
def syncUplaneDtx : Field := { off := 28, width := 1 }
def syncFrame18Extension : Field := { off := 29, width := 1 }
def syncReserved : Field := { off := 30, width := 1 }
def syncMcc : Field := { off := 31, width := 10 }
def syncMnc : Field := { off := 41, width := 14 }
def syncNeighbourBroadcast : Field := { off := 55, width := 2 }
def syncServiceLevel : Field := { off := 57, width := 2 }
def syncLateEntry : Field := { off := 59, width := 1 }

/-- The timeslot number that the coded value 0 of a SYNC PDU stands for (30_encoding R90). -/
def syncFirstTimeslot : BitVec 3 := 1

/-- SYSINFO PDU (30_encoding R91), 124 bits. -/
def sysinfoBits : Nat := 124
def sysMainCarrier : Field := { off := 4, width := 12 }
def sysFrequencyBand : Field := { off := 16, width := 4 }
def sysOffset : Field := { off := 20, width := 2 }
def sysDuplexSpacing : Field := { off := 22, width := 3 }
def sysReverseOperation : Field := { off := 25, width := 1 }
def sysNumSecondaryControl : Field := { off := 26, width := 2 }
def sysMsTxpwrMaxCell : Field := { off := 28, width := 3 }
def sysRxlevAccessMin : Field := { off := 31, width := 4 }
def sysAccessParameter : Field := { off := 35, width := 4 }
def sysRadioDownlinkTimeout : Field := { off := 39, width := 4 }
def sysHfCckFlag : Field := { off := 43, width := 1 }
def sysHfCckValue : Field := { off := 44, width := 16 }
def sysOptionalFlag : Field := { off := 60, width := 2 }
def sysOptionalValue : Field := { off := 62, width := 20 }
def sysLocationArea : Field := { off := 82, width := 14 }
def sysSubscriberClass : Field := { off := 96, width := 16 }
def sysBsServiceDetails : Field := { off := 112, width := 12 }

/-- ACCESS-ASSIGN PDU (30_encoding R100), 14 bits. -/
def aachHeader : Field := { off := 0, width := 2 }
def aachField1 : Field := { off := 2, width := 6 }
def aachField2 : Field := { off := 8, width := 6 }

/-- The header of an access assignment that means common control, with no usage marker in field 1 (30_encoding R100). -/
def aachCommonControl : BitVec 2 := 0
/-- The frame in which no header gives a downlink usage marker (30_encoding R100). -/
def aachFrameWithoutMarker : BitVec 5 := 18
/-- The last usage marker that is not a traffic usage marker (30_encoding R100). -/
def aachLastReservedMarker : Nat := 3

/-- MAC-RESOURCE (30_encoding R93), from the first bit of the PDU to the address. -/
def resFill : Field := { off := 2, width := 1 }
def resGrant : Field := { off := 3, width := 1 }
def resEncMode : Field := { off := 4, width := 2 }
def resRandomAccess : Field := { off := 6, width := 1 }
def resLengthInd : Field := { off := 7, width := 6 }
def resAddrType : Field := { off := 13, width := 3 }
/-- The encryption mode of a clear MAC-RESOURCE (30_encoding R93). -/
def resEncClear : BitVec 2 := 0
/-- Where the address of a MAC-RESOURCE starts. -/
def resAddrOff : Nat := 16
/-- The flag bits that always follow the address (45_upper_mac R237). -/
def resFlagBits : Nat := 3

/-- The address type of the null PDU (30_encoding R94, 45_upper_mac R236). -/
def addrTypeNull : BitVec 3 := 0
/-- What an address of the given type holds (30_encoding R94). -/
def addrContent (at_ : BitVec 3) : AddrContent :=
  match at_.toNat with
  | 0 => { ssi := false, eventLabel := false, usageMarker := false }
  | 1 => { ssi := true, eventLabel := false, usageMarker := false }
  | 2 => { ssi := false, eventLabel := true, usageMarker := false }
  | 3 => { ssi := true, eventLabel := false, usageMarker := false }
  | 4 => { ssi := true, eventLabel := false, usageMarker := false }
  | 5 => { ssi := true, eventLabel := true, usageMarker := false }
  | 6 => { ssi := true, eventLabel := false, usageMarker := true }
  | _ => { ssi := true, eventLabel := true, usageMarker := false }

/-- Widths of the parts of an address (30_encoding R94). -/
def ssiBits : Nat := 24
def eventLabelBits : Nat := 10
def usageMarkerBits : Nat := 6

/-- Power control and slot granting elements (30_encoding R109). -/
def powerControlBits : Nat := 4
def slotGrantingBits : Nat := 8

/-- MAC-FRAG (30_encoding R96). -/
def fragFill : Field := { off := 3, width := 1 }
/-- Where the TM-SDU of a MAC-FRAG starts. -/
def fragSduOff : Nat := 4

/-- MAC-END (30_encoding R97). -/
def endFill : Field := { off := 3, width := 1 }
def endGrant : Field := { off := 4, width := 1 }
def endLengthInd : Field := { off := 5, width := 6 }
/-- Where the optional elements of a MAC-END start. -/
def endElementsOff : Nat := 11

/-- MAC-SUPPLEMENTARY (30_encoding R98). -/
def supSubType : Field := { off := 2, width := 1 }
def supFill : Field := { off := 3, width := 1 }
def supEncMode : Field := { off := 4, width := 2 }
def supEventLabel : Field := { off := 6, width := 10 }
def supNapping : Field := { off := 16, width := 1 }
def supSlotGranting : Field := { off := 17, width := 1 }
/-- Where the TM-SDU of a MAC-SUPPLEMENTARY starts without a slot granting element. -/
def supSduOff : Nat := 18

/-- Length indications 1 to 34 give the PDU's length in octets (30_encoding R95). -/
def liMinOctets : Nat := 1
def liMaxOctets : Nat := 34
/-- The number of bits one unit of a length indication stands for (30_encoding R95). -/
def liUnitBits : Nat := 8
/-- "Second half slot stolen" (30_encoding R95). -/
def liSecondHalfStolen : BitVec 6 := 62
/-- "Start of fragmentation" (30_encoding R95). -/
def liStartOfFragmentation : BitVec 6 := 63

/-- Bits of the augmented part of a channel allocation element up to its end, read from offset `p` (30_encoding
R99): 26 bits, napping status 2, napping information 11 if the status is 1, reserved 4, conditional elements A and B
of 16 bits behind a flag each, one flag. Returns the offset behind it. -/
def chanAllocAugmented (v : Bits) (p : Nat) : Nat :=
  let status := p + 26
  let reserved := status + 2 + (if uint (slice v status 2) = 1 then 11 else 0)
  let flagA := reserved + 4
  let flagB := flagA + 1 + (if bitAt v flagA then 16 else 0)
  let further := flagB + 1 + (if bitAt v flagB then 16 else 0)
  further + 1

/-- The total width of the channel allocation element at the start of `v`, reading bits that `v` does not have as 0
(30_encoding R99). If some field it reaches lies outside `v`, the total is greater than the length of `v`. -/
def chanAllocTotal (v : Bits) : Nat :=
  let monitoring := 23 + (if bitAt v 22 then 10 else 0)
  let p := monitoring + 2 + (if uint (slice v monitoring 2) = 0 then 2 else 0)
  if uint (slice v 6 2) = 0 then chanAllocAugmented v p else p

/-- `chan_alloc_len v` (30_encoding R99): defined only if `v` is long enough for every field it reaches. -/
def chanAllocLen (v : Bits) : Option Nat :=
  if chanAllocTotal v ≤ v.length then some (chanAllocTotal v) else none

end Sys2Proof.Config
end

