-- ==== Sys2Proof/WellFormed.lean ====
section
/-! DEFINITION. Which terms of `Instr` stand for an encoding of their own row: two rows are "every other value"
rows, and their operand must not be a value another row owns. -/

namespace Sys2Proof

/-- `LI_OCTETS` covers the length indications that are neither 62 nor 63 (30_encoding R95); `KSG_UNSUPPORTED` the
codes other than 1, 2, 3 (30_encoding R101). Every operand value of every other row is an encoding of that row
(30_encoding R82: "Every operand value of a legal command word is acceptable"). -/
def Instr.wellFormed : Instr → Bool
  | .nop => true
  | .reset => true
  | .pushBit _ => true
  | .loadNet _ _ _ _ => true
  | .loadKey _ _ _ _ _ _ => true
  | .tsqSync => true
  | .tsqNorm1 => true
  | .tsqNorm2 => true
  | .sb1 => true
  | .sb2 => true
  | .ndb => true
  | .bbk => true
  | .schHu => true
  | .schF => true
  | .macResource => true
  | .macFrag => true
  | .macEnd => true
  | .broadcastSysinfo => true
  | .broadcastAccessDefine => true
  | .broadcastOther _ => true
  | .macSupplementary => true
  | .liOctets l => l != Config.liSecondHalfStolen && l != Config.liStartOfFragmentation
  | .liSecondHalfStolen => true
  | .liStartOfFragmentation => true
  | .ksgTea1 => true
  | .ksgTea2 => true
  | .ksgTea3 => true
  | .ksgUnsupported k => k != Config.ksgCodeTea1 && k != Config.ksgCodeTea2 && k != Config.ksgCodeTea3

end Sys2Proof
end

