-- ==== Sys2Proof/Decode.lean ====
section
/-! DEFINITION. The decoder, total on any word and rejecting by name, and the encoder, both from the tables of
30_encoding: command words (R80 to R83), training sequences (R85), sub-block types (R88), MAC PDU prefixes (R92),
length indications (R95), KSG codes (R101). -/

namespace Sys2Proof

/-- Why a word selects no operation. -/
inductive Reject
  /-- A command opcode outside {0x00, 0x01, 0x02, 0x10, 0x11} (30_encoding R82). -/
  | unassignedOpcode
  /-- A legal opcode with a must-be-zero bit set (30_encoding R82). -/
  | mustBeZero
  /-- Not the pattern of `SYNC`, `NORM_1` or `NORM_2` (30_encoding R84, R107). -/
  | noTrainingSequence
  /-- Sub-block codes 6 and 7, which 30_encoding R88 does not assign. -/
  | noSubBlockType
  /-- Fewer bits than the prefix of 30_encoding R92 needs. -/
  | pduTooShort
deriving DecidableEq, Repr

/-- What a word decodes to. -/
inductive Decoded
  | instr (i : Instr)
  | reject (r : Reject)
deriving DecidableEq, Repr

/-- Bits 191:184 of a command word (30_encoding R80). -/
def cmdOpcode (w : CmdWord) : BitVec Config.cmdOpcodeBits := w.extractLsb' Config.cmdOperandBits Config.cmdOpcodeBits

/-- Host command words, 30_encoding R80 to R83. -/
def decodeCommand (w : CmdWord) : Decoded :=
  if cmdOpcode w = Config.opcodeNop then
    if w.extractLsb' 0 Config.cmdOperandBits = 0 then .instr .nop else .reject .mustBeZero
  else if cmdOpcode w = Config.opcodeReset then
    if w.extractLsb' 0 Config.cmdOperandBits = 0 then .instr .reset else .reject .mustBeZero
  else if cmdOpcode w = Config.opcodePushBit then
    if w.extractLsb' 1 Config.cbZeroBits = 0 then .instr (.pushBit (w.getLsbD 0)) else .reject .mustBeZero
  else if cmdOpcode w = Config.opcodeLoadNet then
    if w.extractLsb' 0 Config.cnZeroBits = 0 then
      .instr (.loadNet (w.extractLsb' Config.cmdMccLsb 16) (w.extractLsb' Config.cmdMncLsb 16)
        (w.extractLsb' Config.cnKsgTypeLsb 8) (w.extractLsb' Config.cnSecurityClassLsb 8))
    else .reject .mustBeZero
  else if cmdOpcode w = Config.opcodeLoadKey then
    .instr (.loadKey (w.extractLsb' Config.cmdMccLsb 16) (w.extractLsb' Config.cmdMncLsb 16)
      (w.extractLsb' Config.ckAddrLsb 32) (w.extractLsb' Config.ckKeyTypeLsb 8)
      (w.extractLsb' Config.ckKeyNumLsb 32) (w.extractLsb' Config.ckKeyLsb 80))
  else .reject .unassignedOpcode

/-- Training sequences the splitter has a burst map for (30_encoding R84 to R87): exact patterns, index 0 first. -/
def decodeTraining (pattern : Bits) : Decoded :=
  if some pattern = Config.tsq .sync then .instr .tsqSync
  else if some pattern = Config.tsq .norm1 then .instr .tsqNorm1
  else if some pattern = Config.tsq .norm2 then .instr .tsqNorm2
  else .reject .noTrainingSequence

/-- Sub-block type codes (30_encoding R88). -/
def decodeSubBlock (code : BitVec 3) : Decoded :=
  if code = 0 then .instr .sb1
  else if code = 1 then .instr .sb2
  else if code = 2 then .instr .ndb
  else if code = 3 then .instr .bbk
  else if code = 4 then .instr .schHu
  else if code = 5 then .instr .schF
  else .reject .noSubBlockType

/-- The MAC PDU type prefix at the front of a PDU (30_encoding R92); the bits after it do not matter here. -/
def decodePdu (v : Bits) : Decoded :=
  if Config.prefixResource.isPrefixOf v then .instr .macResource
  else if Config.prefixFrag.isPrefixOf v then .instr .macFrag
  else if Config.prefixEnd.isPrefixOf v then .instr .macEnd
  else if Config.prefixSysinfo.isPrefixOf v then .instr .broadcastSysinfo
  else if Config.prefixAccessDefine.isPrefixOf v then .instr .broadcastAccessDefine
  else if (Config.prefixOther false).isPrefixOf v then .instr (.broadcastOther false)
  else if (Config.prefixOther true).isPrefixOf v then .instr (.broadcastOther true)
  else if Config.prefixSupplementary.isPrefixOf v then .instr .macSupplementary
  else .reject .pduTooShort

/-- The length indication of a MAC-RESOURCE (30_encoding R95). -/
def decodeLengthInd (li : BitVec 6) : Instr :=
  if li = Config.liSecondHalfStolen then .liSecondHalfStolen
  else if li = Config.liStartOfFragmentation then .liStartOfFragmentation
  else .liOctets li

/-- The KSG type code of a network entry (30_encoding R101). -/
def decodeKsg (code : BitVec 8) : Instr :=
  if code = Config.ksgCodeTea1 then .ksgTea1
  else if code = Config.ksgCodeTea2 then .ksgTea2
  else if code = Config.ksgCodeTea3 then .ksgTea3
  else .ksgUnsupported code

/-- The decoder: each word in its own encoding space. -/
def decode : PortWord → Decoded
  | .command w => decodeCommand w
  | .training p => decodeTraining p
  | .subBlock c => decodeSubBlock c
  | .pdu v => decodePdu v
  | .lengthInd li => .instr (decodeLengthInd li)
  | .ksg c => .instr (decodeKsg c)

/-- The command word of an opcode and its operand bits (30_encoding R80). -/
def cmdWord (opcode : BitVec Config.cmdOpcodeBits) (operands : BitVec Config.cmdOperandBits) : CmdWord := opcode ++ operands

/-- Operand bits of format `CN` (30_encoding R80). -/
def cnOperands (mcc mnc : BitVec 16) (ksgType securityClass : BitVec 8) : BitVec Config.cmdOperandBits :=
  mcc ++ (mnc ++ (ksgType ++ (securityClass ++ (0 : BitVec Config.cnZeroBits))))

/-- Operand bits of format `CK` (30_encoding R80). -/
def ckOperands (mcc mnc : BitVec 16) (addr : BitVec 32) (keyType : BitVec 8) (keyNum : BitVec 32)
    (key : BitVec 80) : BitVec Config.cmdOperandBits :=
  mcc ++ (mnc ++ (addr ++ (keyType ++ (keyNum ++ key))))

/-- The encoder: the word that selects an operation, from the same tables. -/
def encode : Instr → PortWord
  | .nop => .command (cmdWord Config.opcodeNop 0)
  | .reset => .command (cmdWord Config.opcodeReset 0)
  | .pushBit b => .command (cmdWord Config.opcodePushBit (BitVec.setWidth Config.cmdOperandBits (BitVec.ofBool b)))
  | .loadNet mcc mnc kt sc => .command (cmdWord Config.opcodeLoadNet (cnOperands mcc mnc kt sc))
  | .loadKey mcc mnc ad kt kn k => .command (cmdWord Config.opcodeLoadKey (ckOperands mcc mnc ad kt kn k))
  | .tsqSync => .training ((Config.tsq .sync).getD [])
  | .tsqNorm1 => .training ((Config.tsq .norm1).getD [])
  | .tsqNorm2 => .training ((Config.tsq .norm2).getD [])
  | .sb1 => .subBlock 0
  | .sb2 => .subBlock 1
  | .ndb => .subBlock 2
  | .bbk => .subBlock 3
  | .schHu => .subBlock 4
  | .schF => .subBlock 5
  | .macResource => .pdu Config.prefixResource
  | .macFrag => .pdu Config.prefixFrag
  | .macEnd => .pdu Config.prefixEnd
  | .broadcastSysinfo => .pdu Config.prefixSysinfo
  | .broadcastAccessDefine => .pdu Config.prefixAccessDefine
  | .broadcastOther b => .pdu (Config.prefixOther b)
  | .macSupplementary => .pdu Config.prefixSupplementary
  | .liOctets l => .lengthInd l
  | .liSecondHalfStolen => .lengthInd Config.liSecondHalfStolen
  | .liStartOfFragmentation => .lengthInd Config.liStartOfFragmentation
  | .ksgTea1 => .ksg Config.ksgCodeTea1
  | .ksgTea2 => .ksg Config.ksgCodeTea2
  | .ksgTea3 => .ksg Config.ksgCodeTea3
  | .ksgUnsupported k => .ksg k

/-- The word of spec/opcode_table.json with `nbits` bits of value `w` (the table's patterns read as one number,
the rightmost bit least significant), in the encoding space that `nbits` tells: 192 a command word; 38 and 22 a
training sequence, also when rounded up to 40 and 24; 8 a KSG code; 6 a length indication; 3 a sub-block type; 4 and
2 a MAC PDU prefix, the PDU's later bits being zero. The spaces overlap in their bits and only their place in the
machine tells them apart, so a width that several spaces share goes to the one named here (log 8). -/
def tableWord (nbits w : Nat) : Option PortWord :=
  if 2 ^ nbits ≤ w then none
  else if nbits = Config.cmdWidth then some (.command (BitVec.ofNat Config.cmdWidth w))
  else if nbits = 40 ∨ nbits = 38 then if w < 2 ^ 38 then some (.training (bitsN 38 w)) else none
  else if nbits = 24 ∨ nbits = 22 then if w < 2 ^ 22 then some (.training (bitsN 22 w)) else none
  else if nbits = 8 then some (.ksg (BitVec.ofNat 8 w))
  else if nbits = 6 then some (.lengthInd (BitVec.ofNat 6 w))
  else if nbits = 4 ∨ nbits = 2 then some (.pdu (bitsN nbits w ++ [false, false]))
  else if nbits = 3 then some (.subBlock (BitVec.ofNat 3 w))
  else none

/-- The instruction the decoder reads from a word of the opcode table, `none` where it refuses. -/
def decodeTableWord (nbits w : Nat) : Option Instr :=
  match tableWord nbits w with
  | none => none
  | some p =>
    match decode p with
    | .instr i => some i
    | .reject _ => none

end Sys2Proof
end

