-- ==== Sys2Proof/Machine/Codecs.lean ====
section
/-! DEFINITION. The bit-level codecs (41_codecs): CRC-16/ITU-T, RM(30,14), the LFSR scrambler, block and matrix
interleavers, the punctured convolutional code. Pure functions; the encode direction is there because the document's
properties use it (00_scope R7). The Viterbi decoder is in Machine/Viterbi.lean. -/

namespace Sys2Proof

/-- `crc16_step` (41_codecs R120). -/
def crc16Step (crc : BitVec 16) (b : Bool) : BitVec 16 :=
  if crc.getLsbD 15 ^^ b then (crc <<< 1) ^^^ Config.crcPoly else crc <<< 1

/-- `crc16 seed v` (41_codecs R121): the step folded over `v` in index order. -/
def crc16 (seed : BitVec 16) (v : Bits) : BitVec 16 := v.foldl crc16Step seed

/-- `crc_ok v` (41_codecs R122). -/
def crcOk (v : Bits) : Bool := crc16 Config.crcSeed v == Config.crcResidue

/-- `crc_append p` (41_codecs R123): the complement of the register, most significant bit first. -/
def crcAppend (p : Bits) : Bits := p ++ bitsN 16 (crc16 Config.crcSeed p ^^^ Config.crcXorOut).toNat

/-- Row `i` of `RM_G` (41_codecs R124): the unit vector of `i`, then the open parity part. -/
def rmRow (i : Nat) : Bits := (List.range 14).map (fun j => decide (j = i)) ++ bitsN 16 (Config.rmParity i).toNat

/-- `rm_encode u` (41_codecs R124): the XOR of the rows selected by the bits of `u`. -/
def rmEncode (u : Bits) : Bits :=
  (List.range 14).foldl (fun c i => if bitAt u i then xorBits c (rmRow i) else c) (List.replicate 30 false)

/-- `rm_decode c` (41_codecs R125, R126): systematic truncation, no error correction. -/
def rmDecode (c : Bits) : Bits := slice c 0 14

/-- The XOR of the tapped register bits (41_codecs R127): tap `y` reads bit `32 - y`. -/
def lfsrFeedback (l : BitVec 32) : Bool := Config.lfsrTaps.foldl (fun x y => x ^^ l.getLsbD (32 - y)) false

/-- `lfsr_next l` (41_codecs R127): the new register and the output bit. -/
def lfsrNext (l : BitVec 32) : BitVec 32 × Bool :=
  ((l >>> 1) ||| (BitVec.setWidth 32 (BitVec.ofBool (lfsrFeedback l)) <<< 31), lfsrFeedback l)

/-- `n` steps of the scrambler register: the output bits in order, and the register behind them (41_codecs R128). -/
def scrambleRun (l : BitVec 32) : Nat → Bits × BitVec 32
  | 0 => ([], l)
  | n + 1 =>
    let rest := scrambleRun (lfsrNext l).1 n
    ((lfsrNext l).2 :: rest.1, rest.2)

/-- `scramble_seq init n` (41_codecs R128). -/
def scrambleSeq (init : BitVec 32) (n : Nat) : Bits := (scrambleRun init n).1

/-- `scramble x init` and `descramble`, the same function (41_codecs R129). -/
def scramble (x : Bits) (init : BitVec 32) : Bits := xorBits x (scrambleSeq init x.length)

/-- The soft symbols of `v` negated where the bit of `ks` is 1: the XOR of a bit vector and `ks` on soft symbols
(41_codecs R129, 43_splitter_lower_mac R201, 44_crypto R220). -/
def negateUnder : List Soft → Bits → List Soft
  | x :: v, k :: ks => (if k then -x else x) :: negateUnder v ks
  | v, [] => v
  | [], _ => []

/-- `scramble` and `descramble` applied to soft symbols (41_codecs R129). The core's own pipeline descrambles hard bits
(43_splitter_lower_mac R188). -/
def scrambleSoft (x : List Soft) (init : BitVec 32) : List Soft := negateUnder x (scrambleSeq init x.length)

/-- `scramb_init mcc mnc cc` (41_codecs R130). -/
def scrambInit (mcc mnc cc : Nat) : BitVec 32 :=
  BitVec.ofNat 32
    (((((cc &&& Config.ccMask) ||| ((mnc &&& Config.mncMask) <<< Config.scrambMncShift)) |||
      ((mcc &&& Config.mccMask) <<< Config.scrambMccShift)) <<< Config.scrambIdShift) ||| Config.scrambConst)

/-- `SCRAMB_INIT_SB1` (41_codecs R131). -/
def scrambInitSb1 : BitVec 32 := BitVec.ofNat 32 Config.scrambConst

/-- Where the block interleaver sends the element of 0-based index `i0` (41_codecs R132): `k - 1` with
`k = 1 + ((a × i) mod K)` and `i = i0 + 1`. -/
def interleaveIndex (K a i0 : Nat) : Nat := (a * (i0 + 1)) % K

/-- `block_interleave K a x` (41_codecs R132). `hole` stands at the positions no element reaches, which exist only
when `gcd a K ≠ 1`, and for elements `x` does not have (log 21). -/
def blockInterleave {α : Type} (hole : α) (K a : Nat) (x : List α) : List α :=
  (List.range K).foldl (fun y i => y.set (interleaveIndex K a i) (x.getD i hole)) (List.replicate K hole)

/-- `block_deinterleave K a y` (41_codecs R133). -/
def blockDeinterleave {α : Type} (hole : α) (K a : Nat) (y : List α) : List α :=
  (List.range K).map fun i => y.getD (interleaveIndex K a i) hole

/-- `matrix_interleave lines columns x` (41_codecs R135): `y[i × lines + j] = x[j × columns + i]`. -/
def matrixInterleave {α : Type} (hole : α) (lines columns : Nat) (x : List α) : List α :=
  (List.range (lines * columns)).map fun k => x.getD ((k % lines) * columns + k / lines) hole

/-- `matrix_deinterleave lines columns y` (41_codecs R136): `x[j × columns + i] = y[i × lines + j]`. -/
def matrixDeinterleave {α : Type} (hole : α) (lines columns : Nat) (y : List α) : List α :=
  (List.range (lines * columns)).map fun k => y.getD ((k % columns) * lines + k / columns) hole

/-- The parity of the low `n` bits of a mask. -/
def parityN : Nat → Nat → Bool
  | 0, _ => false
  | n + 1, x => x.testBit n ^^ parityN n x

/-- Output bit `n` of the mother-code encoder with constraint length `K` in state `s` on input `b` (41_codecs R138,
R147): `parity (gen[n] & ((b << (K - 1)) | s))`. -/
def convOut (K : Nat) (gen : List Nat) (s : Nat) (b : Bool) (n : Nat) : Bool :=
  parityN K (gen.getD n 0 &&& ((b.toNat <<< (K - 1)) ||| s))

/-- The next encoder state (41_codecs R147): the newest bit enters at the top. -/
def convNext (K : Nat) (s : Nat) (b : Bool) : Nat := (b.toNat <<< (K - 2)) ||| (s >>> 1)

/-- The outputs of one input bit, `G1` first. -/
def convOuts (N K : Nat) (gen : List Nat) (s : Nat) (b : Bool) : Bits :=
  (List.range N).map fun n => convOut K gen s b n

/-- The mother-code encoder from state `s` (41_codecs R138), for any generator. -/
def convEncodeWith (N K : Nat) (gen : List Nat) : Nat → Bits → Bits
  | _, [] => []
  | s, b :: u => convOuts N K gen s b ++ convEncodeWith N K gen (convNext K s b) u

/-- `conv_encode u` (41_codecs R138): rate 1/4, K = 5, from the all-zero state. -/
def convEncode (u : Bits) : Bits := convEncodeWith Config.convN Config.convK Config.convGen 0 u

/-- `punct_index p j` for `j ≥ 1` (41_codecs R142). -/
def punctIndex (p : Puncturer) (j : Nat) : Nat :=
  let i := p.remap j
  let g := (i - 1) / p.t
  p.period * g + p.P.getD (i - p.t * g - 1) 0

/-- `puncture p m n_out` (41_codecs R142), which requires `punct_index p n_out ≤ len m`. -/
def puncture (p : Puncturer) (m : Bits) (nOut : Nat) : Bits :=
  (List.range nOut).map fun j => bitAt m (punctIndex p (j + 1) - 1)

/-- `soft b` (41_codecs R143). -/
def soft (b : Bool) : Soft := if b then Config.softOne else Config.softZero

/-- The scatter of `depuncture` from output position `j` on (41_codecs R144). -/
def depunctureFrom (p : Puncturer) : Nat → List Soft → List Soft → List Soft
  | _, [], m => m
  | j, y :: ys, m => depunctureFrom p (j + 1) ys (m.set (punctIndex p j - 1) y)

/-- `depuncture p y n_mother` (41_codecs R144): every entry erased first, then scattered. -/
def depuncture (p : Puncturer) (y : List Soft) (nMother : Nat) : List Soft :=
  depunctureFrom p 1 y (List.replicate nMother Config.softErased)

/-- `expand` (44_crypto R217, 20_memory R67): each keystream byte most significant bit first. -/
def expandBytes (bytes : List (BitVec 8)) : Bits := bytes.flatMap fun b => bitsN 8 b.toNat

end Sys2Proof
end

