-- ==== Sys2Proof/Machine/State.lean ====
section
/-! DEFINITION. The state of one TBS-CORE instance (10_state R20 to R54), its events (60_exceptions R296, R297), its
cause codes (R281), and the machine right after reset (10_state R53). State is plain data. -/

namespace Sys2Proof.Machine

/-- `sync_state` (10_state R21); the codes 0, 1, 2 are `SyncState.code`. -/
inductive SyncState
  | unlocked | knowFrameStart | locked
deriving DecidableEq, Repr, Inhabited

/-- `time` (10_state R25, 40_tdma_time R110). -/
structure Time where
  hn : BitVec 16
  mn : BitVec 6
  fn : BitVec 5
  tn : BitVec 3
  sn : BitVec 8
deriving DecidableEq, Repr, Inhabited

/-- Synchronizer registers (10_state R21 to R24). `bitbuf` holds the valid cells of M1, oldest first;
`bitbuf_len` is its length (log 20). -/
structure SyncRegs where
  state : SyncState
  bitbuf : Bits
  startBitnum : Nat
  nextFrameStart : Nat
deriving DecidableEq, Repr, Inhabited

/-- The snapshot attached to every decoded PDU (10_state R32): a copy of `time`, the block number and the sub-block
type. The spec gives the block number's values 0 to 2 and no width: 2 bits are the model's DESIGN CHOICE (log 38). -/
structure Snap where
  time : Time
  blkNum : BitVec 2
  subblock : SubBlock
deriving DecidableEq, Repr, Inhabited

/-- The PDU buffer (10_state R26, memory M2) with its four layer offsets; TBS-CORE writes `l1` and `l2` only. -/
structure Pdu where
  bits : Bits
  l1 : Option Nat
  l2 : Option Nat
  l3 : Option Nat
  l4 : Option Nat
deriving DecidableEq, Repr, Inhabited

/-- What a PDU handler returns (45_upper_mac R231): `WHOLE`, "slot fully consumed", or a number of bits. -/
inductive Consumed
  | whole
  | bits (n : Nat)
deriving DecidableEq, Repr, Inhabited

/-- The transient working registers (10_state R26 to R29, R32), dead between commands (R52, log 4), and the
arguments and results of the rules' calls that the model holds beside them (log 5): `crcOk` (the `ok` of
45_upper_mac R230), `iv` and `eck` (44_crypto R216), `consumed` (45_upper_mac R231). -/
structure Work where
  pdu : Pdu
  lfsr : BitVec 32
  crc : BitVec 16
  /-- Viterbi path metrics, `none` for minus infinity. -/
  pm : List (Option Int)
  /-- Survivor table, one row per trellis step, first step first. -/
  surv : List (List Bool)
  ks : Bits
  snap : Snap
  crcOk : Bool
  iv : BitVec 32
  eck : BitVec 80
  consumed : Consumed
deriving DecidableEq, Repr, Inhabited

/-- Cell state (10_state R33 to R35). -/
structure Cell where
  mcc : BitVec 10
  mnc : BitVec 14
  cc : BitVec 6
  scrambInit : BitVec 32
  valid : Bool
deriving DecidableEq, Repr, Inhabited

/-- Crypto state (10_state R36 to R39). -/
structure Crypto where
  mcc : Option (BitVec 10)
  mnc : Option (BitVec 14)
  cc : Option (BitVec 6)
  cckId : Option (BitVec 16)
  hn : Option (BitVec 16)
  la : Option (BitVec 14)
  cn : Option (BitVec 12)
  network : Option Nat
  cck : Option Nat
deriving DecidableEq, Repr, Inhabited

/-- The fields of a SYSINFO PDU (30_encoding R91). -/
structure Sysinfo where
  mainCarrier : BitVec 12
  frequencyBand : BitVec 4
  offset : BitVec 2
  duplexSpacing : BitVec 3
  reverseOperation : Bool
  numSecondaryControl : BitVec 2
  msTxpwrMaxCell : BitVec 3
  rxlevAccessMin : BitVec 4
  accessParameter : BitVec 4
  radioDownlinkTimeout : BitVec 4
  hfCckFlag : Bool
  hfCckValue : BitVec 16
  optionalFlag : BitVec 2
  optionalValue : BitVec 20
  locationArea : BitVec 14
  subscriberClass : BitVec 16
  bsServiceDetails : BitVec 12
deriving DecidableEq, Repr, Inhabited

/-- An address record (10_state R44, 30_encoding R94). -/
structure Addr where
  type : BitVec 3
  ssi : BitVec 24
  eventLabel : BitVec 10
  usageMarker : BitVec 6
deriving DecidableEq, Repr, Inhabited

/-- MAC state (10_state R40 to R44). -/
structure Mac where
  isTraffic : BitVec 6
  lastCrcFail : Bool
  blk1Stolen : Bool
  blk2Stolen : Bool
  sysinfo : Option Sysinfo
  addr : Option Addr
deriving DecidableEq, Repr, Inhabited

/-- A network entry (10_state R49). -/
structure NetEntry where
  mcc : BitVec 16
  mnc : BitVec 16
  ksgType : BitVec 8
  securityClass : BitVec 8
deriving DecidableEq, Repr, Inhabited

/-- A key entry (10_state R50); `key` is the ten bytes, `key[0]` on top (20_memory R66). -/
structure KeyEntry where
  mcc : BitVec 16
  mnc : BitVec 16
  addr : BitVec 32
  keyType : BitVec 8
  keyNum : BitVec 32
  key : BitVec 80
  index : Nat
deriving DecidableEq, Repr, Inhabited

/-- The key database (10_state R45, R49, R50): memories M4 and M5 in load order; `n_nets` and `n_keys` are their
lengths. -/
structure Db where
  locked : Bool
  nets : List NetEntry
  keys : List KeyEntry
deriving DecidableEq, Repr, Inhabited

/-- One fragment slot (10_state R47, memory M3). -/
structure FragSlot where
  active : Bool
  age : Nat
  numFrags : Nat
  length : Nat
  encrypted : Bool
  key : Option Nat
  buf : Bits
deriving DecidableEq, Repr, Inhabited

/-- The file of fragment slots, indexed by timeslot number 1 to 4; there is no slot 0 (10_state R46). -/
structure FragFile where
  f1 : FragSlot
  f2 : FragSlot
  f3 : FragSlot
  f4 : FragSlot
deriving DecidableEq, Repr, Inhabited

/-- Cause codes (60_exceptions R281). -/
inductive Cause
  | eSyncLoss
  | eCrcFail
  | eNoCrypto
  | eKeystore
  | eFragReentry
  | eKsgUnsupported
  | eResource
  | eCmdIllegal
  | eDbLocked
  | wFragNoSlot
  | wNoFillOne
  | wPduLen
  | wFragAged
  | wSyncFieldRange
deriving DecidableEq, Repr, Inhabited

/-- `SDU_IND.kind` (45_upper_mac R262); the codes 0, 1, 2 are `SduKind.code`. -/
inductive SduKind
  | resource | reassembled | suppl
deriving DecidableEq, Repr, Inhabited

/-- The fields of `SDU_IND` (45_upper_mac R262). -/
structure Sdu where
  snap : Snap
  kind : SduKind
  crcOk : Bool
  encMode : BitVec 2
  decrypted : Bool
  addr : Option Addr
  bits : Bits
  l2Off : Nat
deriving DecidableEq, Repr, Inhabited

/-- The events (60_exceptions R297). -/
inductive Event
  | syncInd (old new : SyncState)
  | burstInd (time : Time) (ty : TrainType)
  | blockInd (snap : Snap) (sb : SubBlock) (crcOk : Bool) (bits : Bits)
  | sduInd (sdu : Sdu)
  | voiceInd (snap : Snap) (decrypted : Bool) (symbols : List Soft)
  | diag (code : Cause) (info : BitVec 32)
deriving DecidableEq, Repr, Inhabited

/-- Why a step stops. Every one concerns an operation inside the pipeline that is run by itself while the working
registers do not hold its operand: the spec defines the operation only as called with that operand ("it is defined
only when `a + w <= len(v)`", 00_scope R9). No host command raises any of them. All are safe: the model stops where
the spec says nothing (log 6). -/
inductive Fault
  /-- Raised by the training-sequence operations when M1 holds fewer than the 510 bits of a slot. Safe. -/
  | slotAbsent
  /-- Raised by the sub-block operations when the PDU buffer does not hold exactly the sub-block's type-5 bits. Safe. -/
  | subBlockAbsent
  /-- Raised by the MAC PDU operations when `pdu.l1` is unset or fewer than `MIN_PDU_BITS` bits stand there. Safe. -/
  | pduAbsent
  /-- Raised by the length-indication operations when no whole MAC-RESOURCE header stands at `pdu.l1`. Safe. -/
  | headerAbsent
deriving DecidableEq, Repr

/-- Why a step is refused. -/
inductive Refusal
  /-- Raised by `exec` for an instruction without a meaning; none is left. Safe. -/
  | notModelled (mnemonic : String)
  /-- Raised by `step` for a word of an encoding space inside the pipeline that no row lists (30_encoding R107); a
  host command word never raises it, an illegal one is reported by `E_CMD_ILLEGAL`. Safe (log 7). -/
  | noSuchEncoding
deriving DecidableEq, Repr

/-- The machine. The eight groups of 10_state R20, then the model's own fields: `port`, the words the host will put
on the command port, next first (log 2), and `events`, the event list of the last command (log 3). -/
structure State where
  sync : SyncRegs
  time : Time
  work : Work
  cell : Cell
  cs : Crypto
  mac : Mac
  frag : FragFile
  db : Db
  port : List PortWord
  events : List Event
deriving DecidableEq, Repr, Inhabited

/-- The reset value of `time` (10_state R53). -/
def Time.reset : Time := { hn := 0, mn := 1, fn := 1, tn := 1, sn := 1 }

/-- The reset value of the synchronizer registers (10_state R53). -/
def SyncRegs.reset : SyncRegs := { state := .unlocked, bitbuf := [], startBitnum := 0, nextFrameStart := 0 }

/-- The empty PDU buffer (10_state R26). -/
def Pdu.empty : Pdu := { bits := [], l1 := none, l2 := none, l3 := none, l4 := none }

/-- The working registers while they are dead: the PDU buffer empty as 10_state R26 says, the others at values the
model names (log 4, log 5). -/
def Work.idle : Work :=
  { pdu := Pdu.empty, lfsr := 0, crc := 0, pm := [], surv := [], ks := [],
    snap := { time := Time.reset, blkNum := 0, subblock := .sb1 },
    crcOk := false, iv := 0, eck := 0, consumed := .whole }

/-- The reset value of the cell state (10_state R53). -/
def Cell.reset : Cell := { mcc := 0, mnc := 0, cc := 0, scrambInit := 0, valid := false }

/-- The reset value of the crypto state (10_state R53). -/
def Crypto.reset : Crypto :=
  { mcc := none, mnc := none, cc := none, cckId := none, hn := none, la := none, cn := none,
    network := none, cck := none }

/-- The reset value of the MAC state (10_state R53). -/
def Mac.reset : Mac :=
  { isTraffic := 0, lastCrcFail := false, blk1Stolen := false, blk2Stolen := false, sysinfo := none, addr := none }

/-- The reset value of a fragment slot (10_state R47). -/
def FragSlot.reset : FragSlot :=
  { active := false, age := 0, numFrags := 0, length := 0, encrypted := false, key := none, buf := [] }

/-- The reset value of the file of fragment slots (10_state R53). -/
def FragFile.reset : FragFile :=
  { f1 := FragSlot.reset, f2 := FragSlot.reset, f3 := FragSlot.reset, f4 := FragSlot.reset }

/-- The reset value of the key database (10_state R53). -/
def Db.reset : Db := { locked := false, nets := [], keys := [] }

/-- The machine right after reset (10_state R53, 70_reset_and_hazards R311), no command presented yet. -/
def State.reset : State :=
  { sync := SyncRegs.reset, time := Time.reset, work := Work.idle, cell := Cell.reset, cs := Crypto.reset,
    mac := Mac.reset, frag := FragFile.reset, db := Db.reset, port := [], events := [] }

end Sys2Proof.Machine
end

