-- ==== Sys2Proof/Machine/TimeModel.lean ====
section
/-! DEFINITION. The TDMA time model (40_tdma_time R110 to R119). -/

namespace Sys2Proof.Machine

/-- `normalize` (40_tdma_time R111) on natural numbers, results `(sn, tn, fn, mn, hn)`; the carry out of the
multiframe is dropped. -/
def normalize (sn tn fn mn hn : Nat) : Nat × Nat × Nat × Nat × Nat :=
  let tn := tn + (sn - 1) / Config.symbolsPerSlot
  let sn := (sn - 1) % Config.symbolsPerSlot + 1
  let fn := fn + (tn - 1) / Config.slotsPerFrame
  let tn := (tn - 1) % Config.slotsPerFrame + 1
  let mn := mn + (fn - 1) / Config.framesPerMultiframe
  let fn := (fn - 1) % Config.framesPerMultiframe + 1
  let mn := (mn - 1) % Config.multiframesPerHyperframe + 1
  (sn, tn, fn, mn, hn)

/-- The five registers after normalization; every result of `normalize` fits its register. -/
def Time.ofNormalized (x : Nat × Nat × Nat × Nat × Nat) : Time :=
  { sn := BitVec.ofNat 8 x.1, tn := BitVec.ofNat 3 x.2.1, fn := BitVec.ofNat 5 x.2.2.1,
    mn := BitVec.ofNat 6 x.2.2.2.1, hn := BitVec.ofNat 16 x.2.2.2.2 }

/-- `time_add_tn n` (40_tdma_time R112). -/
def Time.addTn (t : Time) (n : Nat) : Time :=
  Time.ofNormalized (normalize t.sn.toNat (t.tn.toNat + n) t.fn.toNat t.mn.toNat t.hn.toNat)

/-- `time_add_fn n` (40_tdma_time R113). -/
def Time.addFn (t : Time) (n : Nat) : Time :=
  Time.ofNormalized (normalize t.sn.toNat t.tn.toNat (t.fn.toNat + n) t.mn.toNat t.hn.toNat)

/-- `time_add_mn n` (40_tdma_time R113). -/
def Time.addMn (t : Time) (n : Nat) : Time :=
  Time.ofNormalized (normalize t.sn.toNat t.tn.toNat t.fn.toNat (t.mn.toNat + n) t.hn.toNat)

/-- `time_add_sn n` (40_tdma_time R114). -/
def Time.addSn (t : Time) (n : Nat) : Time :=
  Time.ofNormalized (normalize (t.sn.toNat + n) t.tn.toNat t.fn.toNat t.mn.toNat t.hn.toNat)

/-- `time_set_from_sync` (40_tdma_time R115). -/
def Time.setFromSync (t : Time) (tn : BitVec 3) (fn : BitVec 5) (mn : BitVec 6) : Time :=
  { t with tn := tn, fn := fn, mn := mn }

/-- `time_set_hn` (40_tdma_time R116). -/
def Time.setHn (t : Time) (h : BitVec 16) : Time := { t with hn := h }

/-- The multiframe boundary of 40_tdma_time R119, on the result of a time advance. -/
def Time.atBoundary (t : Time) : Bool := t.fn == 18 && t.tn == 1

/-- The ranges of 40_tdma_time R110; `hn` has every 16-bit value. -/
abbrev Time.inRange (t : Time) : Prop :=
  (1 ≤ t.mn.toNat ∧ t.mn.toNat ≤ 60) ∧ (1 ≤ t.fn.toNat ∧ t.fn.toNat ≤ 18) ∧
    (1 ≤ t.tn.toNat ∧ t.tn.toNat ≤ 4) ∧ (1 ≤ t.sn.toNat ∧ t.sn.toNat ≤ 255)

end Sys2Proof.Machine
end

