-- ==== Sys2Proof/Machine/Ops.lean ====
section
/-! DEFINITION. The named operations on state: one update per group of 10_state R20, events and `raise`
(60_exceptions R301), the bit buffer M1 (20_memory R61), the PDU buffer M2, the fragment file M3, the tables M4 and M5,
and the snapshot. -/

namespace Sys2Proof.Machine

/-! One update per field of `State`. -/

def State.withSync (s : State) (x : SyncRegs) : State := { s with sync := x }
def State.withTime (s : State) (x : Time) : State := { s with time := x }
def State.withWork (s : State) (x : Work) : State := { s with work := x }
def State.withCell (s : State) (x : Cell) : State := { s with cell := x }
def State.withCs (s : State) (x : Crypto) : State := { s with cs := x }
def State.withMac (s : State) (x : Mac) : State := { s with mac := x }
def State.withFrag (s : State) (x : FragFile) : State := { s with frag := x }
def State.withDb (s : State) (x : Db) : State := { s with db := x }
def State.withPort (s : State) (x : List PortWord) : State := { s with port := x }
def State.withEvents (s : State) (x : List Event) : State := { s with events := x }

/-! Events and conditions. -/

/-- The `code` field of `DIAG` (60_exceptions R281); its width is the model's DESIGN CHOICE (log 38). -/
def Cause.code : Cause → BitVec 8
  | .eSyncLoss => 0x01
  | .eCrcFail => 0x02
  | .eNoCrypto => 0x03
  | .eKeystore => 0x04
  | .eFragReentry => 0x05
  | .eKsgUnsupported => 0x06
  | .eResource => 0x07
  | .eCmdIllegal => 0x08
  | .eDbLocked => 0x09
  | .wFragNoSlot => 0x10
  | .wNoFillOne => 0x11
  | .wPduLen => 0x13
  | .wFragAged => 0x14
  | .wSyncFieldRange => 0x15

/-- The event code (60_exceptions R297); its width is the model's DESIGN CHOICE (log 38). -/
def Event.code : Event → BitVec 8
  | .syncInd _ _ => 0x01
  | .burstInd _ _ => 0x02
  | .blockInd _ _ _ _ => 0x03
  | .sduInd _ => 0x10
  | .voiceInd _ _ _ => 0x11
  | .diag _ _ => 0x20

/-- The register code of a synchronizer state (10_state R21). -/
def SyncState.code : SyncState → BitVec 2
  | .unlocked => 0
  | .knowFrameStart => 1
  | .locked => 2

/-- The `kind` field of `SDU_IND` (45_upper_mac R262, which gives the codes and no width): 2 bits are the model's DESIGN
CHOICE (log 38). -/
def SduKind.code : SduKind → BitVec 2
  | .resource => 0
  | .reassembled => 1
  | .suppl => 2

/-- Sub-block type codes (30_encoding R88). -/
def subBlockCode : SubBlock → Nat
  | .sb1 => 0
  | .sb2 => 1
  | .ndb => 2
  | .bbk => 3
  | .schHu => 4
  | .schF => 5

/-- `emit E` (00_scope R13): one event at the end of the list of the current command. -/
def State.emit (s : State) (e : Event) : State := s.withEvents (s.events ++ [e])

/-- `raise X(info)` (60_exceptions R301): the event, and nothing saved; the state changes of the condition are the
statements its rule writes behind the `raise`. There is no return operation (R302): execution goes on with the next
statement. -/
def State.raise (s : State) (c : Cause) (info : BitVec 32) : State := s.emit (.diag c info)

/-- `raise` with a natural number as `info`. -/
def State.raiseNat (s : State) (c : Cause) (info : Nat) : State := s.raise c (BitVec.ofNat 32 info)

/-! M1, the bit buffer. -/

/-- `bitbuf_len`. -/
def State.bitbufLen (s : State) : Nat := s.sync.bitbuf.length

/-- `bitbuf_append b` (42_burst_sync R161). -/
def State.bitbufAppend (s : State) (b : Bool) : State :=
  s.withSync { s.sync with bitbuf := s.sync.bitbuf ++ [b] }

/-- `bitbuf_discard d` (42_burst_sync R171), for `d ≤ bitbuf_len`. -/
def State.bitbufDiscard (s : State) (d : Nat) : State :=
  s.withSync { s.sync with bitbuf := s.sync.bitbuf.drop d, startBitnum := s.sync.startBitnum + d }

/-- `seq <- x` (00_scope R13): writes `sync_state`. -/
def State.setSyncState (s : State) (x : SyncState) : State := s.withSync { s.sync with state := x }

/-- Writes `next_frame_start_bitnum`. -/
def State.setNextFrameStart (s : State) (n : Nat) : State := s.withSync { s.sync with nextFrameStart := n }

/-! M2, the PDU buffer, and the other working registers. -/

/-- The snapshot register with block number and sub-block type (43_splitter_lower_mac R202). -/
def State.takeSnap (s : State) (sb : SubBlock) (blk : BitVec 2) : State :=
  s.withWork { s.work with snap := { time := s.time, blkNum := blk, subblock := sb } }

/-- Loads the PDU buffer with a new bit vector, all layer offsets unset. -/
def State.loadPdu (s : State) (v : Bits) : State := s.withWork { s.work with pdu := { Pdu.empty with bits := v } }

/-- Rewrites the bits of the PDU buffer, as each stage of the lower MAC does (20_memory R62). -/
def State.setPduBits (s : State) (v : Bits) : State :=
  s.withWork { s.work with pdu := { s.work.pdu with bits := v } }

/-- `pdu.l1 <- pos`. -/
def State.setL1 (s : State) (pos : Nat) : State :=
  s.withWork { s.work with pdu := { s.work.pdu with l1 := some pos } }

/-- `pdu.l2 <- q`. -/
def State.setL2 (s : State) (q : Nat) : State :=
  s.withWork { s.work with pdu := { s.work.pdu with l2 := some q } }

/-- The end of a sub-block's processing: the PDU buffer dies (10_state R26). -/
def State.dropPdu (s : State) : State := s.withWork { s.work with pdu := Pdu.empty }

/-- The end of a command: no working register survives it (10_state R52, log 4). -/
def State.endCommand (s : State) : State := s.withWork Work.idle

def State.setLfsr (s : State) (l : BitVec 32) : State := s.withWork { s.work with lfsr := l }
def State.setCrc (s : State) (c : BitVec 16) : State := s.withWork { s.work with crc := c }
def State.setTrellis (s : State) (pm : List (Option Int)) (surv : List (List Bool)) : State :=
  s.withWork { s.work with pm := pm, surv := surv }
def State.setKs (s : State) (ks : Bits) : State := s.withWork { s.work with ks := ks }
def State.setCrcOk (s : State) (ok : Bool) : State := s.withWork { s.work with crcOk := ok }
def State.setKsgInputs (s : State) (iv : BitVec 32) (eck : BitVec 80) : State :=
  s.withWork { s.work with iv := iv, eck := eck }

/-- `return c` of a PDU handler (45_upper_mac R231). -/
def State.consume (s : State) (c : Consumed) : State := s.withWork { s.work with consumed := c }

/-- The first bit of the current MAC PDU, `pos` of the handlers (45_upper_mac R231). A handler is called only behind
`pdu.l1 <- pos`; a MAC PDU row run by itself while `pdu.l1` is unset stops in `State.hasPdu` and never reads this
(00_scope R12, log 6). -/
def State.pduPos (s : State) : Nat := s.work.pdu.l1.getD 0

/-- The timeslot of the current snapshot, `tn` of 45_upper_mac. -/
def State.snapTn (s : State) : BitVec 3 := s.work.snap.time.tn

/-! M3, the fragment slots. -/

/-- `frag[tn]`; there is no slot outside 1 to 4 (10_state R46), and none is read there: the snapshot's timeslot is
always in range (log 18). -/
def FragFile.get (f : FragFile) (tn : BitVec 3) : FragSlot :=
  if tn = 1 then f.f1 else if tn = 2 then f.f2 else if tn = 3 then f.f3 else if tn = 4 then f.f4 else FragSlot.reset

/-- Writes `frag[tn]`; outside 1 to 4 there is nothing to write (log 18). -/
def FragFile.set (f : FragFile) (tn : BitVec 3) (x : FragSlot) : FragFile :=
  if tn = 1 then { f with f1 := x }
  else if tn = 2 then { f with f2 := x }
  else if tn = 3 then { f with f3 := x }
  else if tn = 4 then { f with f4 := x }
  else f

/-- The fragment slot of a timeslot. -/
def State.fragAt (s : State) (tn : BitVec 3) : FragSlot := s.frag.get tn

/-- Writes the fragment slot of a timeslot. -/
def State.setFrag (s : State) (tn : BitVec 3) (x : FragSlot) : State := s.withFrag (s.frag.set tn x)

/-- Whether `n` bits fit in a fragment buffer (`FRAG_BUF_CAP`, possibly unbounded). -/
def fitsFragBuf (n : Nat) : Bool :=
  match Config.fragBufCap with
  | none => true
  | some cap => decide (n ≤ cap)

/-! M4 and M5, the tables. -/

/-- `db.n_nets`. -/
def State.nNets (s : State) : Nat := s.db.nets.length

/-- `db.n_keys`. -/
def State.nKeys (s : State) : Nat := s.db.keys.length

/-- Appends a network entry. -/
def State.appendNet (s : State) (e : NetEntry) : State := s.withDb { s.db with nets := s.db.nets ++ [e] }

/-- Appends a key entry; its `index` is its position (10_state R50). -/
def State.appendKey (s : State) (e : KeyEntry) : State :=
  s.withDb { s.db with keys := s.db.keys ++ [{ e with index := s.nKeys }] }

/-- Byte `i` of the key material (30_encoding R83): bits `79 - 8i` down to `72 - 8i`. -/
def KeyEntry.byte (k : KeyEntry) (i : Nat) : BitVec 8 := k.key.extractLsb' (72 - 8 * i) 8

/-- `db.locked <- 1` (46_host_commands R276). -/
def State.lockDb (s : State) : State := s.withDb { s.db with locked := true }

/-! Cell, crypto and MAC registers. -/

/-- `mac.sysinfo <- some f`. -/
def State.setSysinfo (s : State) (f : Sysinfo) : State := s.withMac { s.mac with sysinfo := some f }

/-- `mac.addr <- some a`. -/
def State.setAddr (s : State) (a : Addr) : State := s.withMac { s.mac with addr := some a }

/-! Canonical form of the memories (20_memory R60; log 34). -/

/-- One fragment slot is in canonical form: an inactive slot is at its reset value, an active one's `length` is the
length of its buffer (10_state R48). -/
abbrev FragSlot.wf (f : FragSlot) : Prop :=
  (f.active = false → f = FragSlot.reset) ∧ (f.active = true → f.length = f.buf.length) ∧
    fitsFragBuf f.buf.length = true

/-- The memories are in canonical form: no buffer or table is longer than its capacity, fragment slots are canonical,
and key entry `i` has index `i`. A memory is the list of its valid cells, so equal memories are equal data. -/
abbrev Memory.wf (s : State) : Prop :=
  s.sync.bitbuf.length ≤ Config.bitbufCap ∧
  (s.frag.f1.wf ∧ s.frag.f2.wf ∧ s.frag.f3.wf ∧ s.frag.f4.wf) ∧
  s.db.nets.length ≤ Config.netCap ∧ s.db.keys.length ≤ Config.keyCap ∧
  s.db.keys.map KeyEntry.index = List.range s.db.keys.length

end Sys2Proof.Machine
end

