-- ==== Sys2Proof/Machine/Crypto.lean ====
section
/-! DEFINITION. The crypto subsystem (44_crypto): filling the crypto state, lookups, keystream generation,
decryption, and the meanings of the KSG rows. The ciphers themselves are open parameters. -/

namespace Sys2Proof.Machine

/-! Lookups (44_crypto R211, R212, R221): linear scans that return the first match. -/

/-- The index of the first network entry for (`mcc`, `mnc`), compared at full table width (30_encoding R83). -/
def lookupNetwork (db : Db) (mcc : Option (BitVec 10)) (mnc : Option (BitVec 14)) : Option Nat :=
  match mcc, mnc with
  | some a, some b => db.nets.findIdx? fun n => n.mcc == a.setWidth 16 && n.mnc == b.setWidth 16
  | _, _ => none

/-- The matched network entry; an index outside the table, which no rule produces, matches nothing (log 19). -/
def matchedNet (db : Db) (network : Option Nat) : Option NetEntry := network.bind fun i => db.nets[i]?

/-- `get_ksg_key ()` (44_crypto R212). -/
def getKsgKey (db : Db) (network : Option Nat) (cckId : Option (BitVec 16)) : Option Nat :=
  match matchedNet db network, cckId with
  | some n, some id =>
    db.keys.findIdx? fun k =>
      k.mcc == n.mcc && k.mnc == n.mnc && k.keyType == Config.keyTypeCck && k.keyNum == id.setWidth 32
  | _, _ => none

/-- `get_key_by_addr addr key_type` (44_crypto R221); no pipeline rule calls it. -/
def getKeyByAddr (db : Db) (network : Option Nat) (addr : BitVec 32) (keyType : BitVec 8) : Option Nat :=
  match matchedNet db network with
  | some n =>
    db.keys.findIdx? fun k => k.mcc == n.mcc && k.mnc == n.mnc && k.addr == addr && k.keyType == keyType
  | none => none

/-- The owning network of a key entry, found by value (10_state R51). -/
def owningNetwork (db : Db) (k : KeyEntry) : Option Nat :=
  db.nets.findIdx? fun n => n.mcc == k.mcc && n.mnc == k.mnc

/-- `update_cck ()` (44_crypto R213). -/
def State.updateCck (s : State) : State :=
  s.withCs { s.cs with cck := getKsgKey s.db s.cs.network s.cs.cckId }

/-- `update_network ()` (44_crypto R211). -/
def State.updateNetwork (s : State) : State :=
  (s.withCs { s.cs with network := lookupNetwork s.db s.cs.mcc s.cs.mnc }).updateCck

/-- `crypto_on_sync mcc mnc cc` (44_crypto R210). -/
def State.cryptoOnSync (s : State) (mcc : BitVec 10) (mnc : BitVec 14) (cc : BitVec 6) : State :=
  (s.withCs { s.cs with mcc := some mcc, mnc := some mnc, cc := some cc }).updateNetwork

/-- `crypto_on_sysinfo f` (44_crypto R210): a SYSINFO carries the hyperframe number or the CCK identifier. -/
def State.cryptoOnSysinfo (s : State) (f : Sysinfo) : State :=
  (if f.hfCckFlag then
    s.withCs { s.cs with cn := some f.mainCarrier, la := some f.locationArea, cckId := some f.hfCckValue }
  else
    s.withCs { s.cs with cn := some f.mainCarrier, la := some f.locationArea, hn := some f.hfCckValue }).updateCck

/-! Keystream generation (44_crypto R214 to R218). -/

/-- `build_iv` (44_crypto R214) through the configured packing; `dir` is 0, the downlink. -/
def buildIv (t : Time) (hn : BitVec 16) (dir : Nat) : BitVec 32 :=
  Config.ivPack t.tn.toNat t.fn.toNat t.mn.toNat hn.toNat dir

/-- The output of a generator given byte by byte: for `n` bytes a prefix of the output for `n + 1` (44_crypto R216,
log 11). -/
def ksgBytes (byte : BitVec 32 → BitVec 80 → Nat → BitVec 8) (iv : BitVec 32) (eck : BitVec 80) (n : Nat) :
    List (BitVec 8) := (List.range n).map (byte iv eck)

/-- Runs a generator on the IV and the ECK in the working registers and fills the keystream buffer (44_crypto R216 to
R218, 10_state R29). -/
def State.runKsg (s : State) (byte : BitVec 32 → BitVec 80 → Nat → BitVec 8) : State :=
  s.setKs (expandBytes (ksgBytes byte s.work.iv s.work.eck Config.ksBytes))

/-- `KSG_TEA1` (44_crypto R216). -/
def ksgTea1 (s : State) : State := s.runKsg Config.ksgTea1Byte

/-- `KSG_TEA2` (44_crypto R216). -/
def ksgTea2 (s : State) : State := s.runKsg Config.ksgTea2Byte

/-- `KSG_TEA3` (44_crypto R216). -/
def ksgTea3 (s : State) : State := s.runKsg Config.ksgTea3Byte

/-- Every other code fails closed (44_crypto R216, 60_exceptions R287): the diagnostic, and no keystream. -/
def ksgUnsupported (k : BitVec 8) (s : State) : State :=
  (s.raise .eKsgUnsupported (k.setWidth 32)).setKs []

/-- KSG dispatch (44_crypto R216) by the `ksg_type` of the matched network. -/
def ksgDispatch (t : BitVec 8) (s : State) : State :=
  match decodeKsg t with
  | .ksgTea1 => ksgTea1 s
  | .ksgTea2 => ksgTea2 s
  | .ksgTea3 => ksgTea3 s
  | .ksgUnsupported k => ksgUnsupported k s
  | _ => s.setKs []

/-- Whether a code selects a generator; every other code fails closed (30_encoding R101). -/
def ksgSupported (t : BitVec 8) : Bool :=
  match decodeKsg t with
  | .ksgUnsupported _ => false
  | _ => true

/-- `generate_keystream key snap` (44_crypto R218): the keystream buffer holds the 432 bits, or nothing for `none`.
The order of the checks is the rule's; `key` is an index into `db.keys`. -/
def generateKeystream (key : Nat) (s : State) : State :=
  match s.cs.cn, s.cs.la, s.cs.cc, s.cs.cckId, s.cs.hn with
  | some cn, some la, some cc, some _, some hn =>
    match matchedNet s.db s.cs.network with
    | none => s.setKs []
    | some net =>
      if ksgSupported net.ksgType then
        match s.db.keys[key]? with
        | none => s.setKs []
        | some k =>
          ksgDispatch net.ksgType (s.setKsgInputs (buildIv s.work.snap.time hn 0) (Config.tb5 cn la cc k.key))
      else ksgDispatch net.ksgType s
  | _, _, _, _, _ => s.setKs []

/-! Decryption (44_crypto R219, R220). -/

/-- The keystream with the halfslot skip applied where it is due. -/
def skipKs (skip : Bool) (ks : Bits) : Bits := if skip then ks.drop Config.ksHalfslotSkip else ks

/-- `decrypt_mac_element snap key a n` (44_crypto R219): whether it decrypted, and the state, in which only
`pdu.bits[a +: n]` may differ (20_memory R78) besides the keystream registers and a diagnostic. -/
def decryptMacElement (key : Option Nat) (a n : Nat) (s : State) : Bool × State :=
  match key with
  | none => (false, s)
  | some k =>
    let s := generateKeystream k s
    if s.work.ks = [] then (false, s)
    else
      let b := s.work.pdu.bits
      let ks := skipKs (s.work.snap.blkNum == 2) s.work.ks
      (true, s.setPduBits (b.take a ++ xorBits (slice b a n) ks ++ b.drop (a + n)))

/-- `decrypt_voice_timeslot snap v` (44_crypto R220): whether it decrypted, the symbols, and the state. -/
def decryptVoice (v : List Soft) (s : State) : Bool × List Soft × State :=
  match s.cs.cck with
  | none => (false, v, s)
  | some k =>
    let s := generateKeystream k s
    if s.work.ks = [] then (false, v, s)
    else (true, negateUnder v (skipKs s.mac.blk1Stolen s.work.ks), s)

/-! The meanings of the KSG rows. The operands of `KSG_TEAx` are the IV and the ECK in the working registers. -/

/-- KSG_TEA1 (44_crypto R216). -/
def execKsgTea1 (s : State) : Host.Outcome State Fault Refusal := .next (ksgTea1 s)

/-- KSG_TEA2 (44_crypto R216). -/
def execKsgTea2 (s : State) : Host.Outcome State Fault Refusal := .next (ksgTea2 s)

/-- KSG_TEA3 (44_crypto R216). -/
def execKsgTea3 (s : State) : Host.Outcome State Fault Refusal := .next (ksgTea3 s)

/-- KSG_UNSUPPORTED (44_crypto R216, 60_exceptions R287). -/
def execKsgUnsupported (k : BitVec 8) (s : State) : Host.Outcome State Fault Refusal := .next (ksgUnsupported k s)

end Sys2Proof.Machine
end

