-- ==== Sys2Proof/Machine/Flags.lean ====
section
/-! DEFINITION. The flags of 10_state R31 that the pipeline computes, each with the rule that writes it. -/

namespace Sys2Proof.Machine

/-- Both stolen flags cleared at the start of a delivered burst (43_splitter_lower_mac R185). -/
def State.clearStolen (s : State) : State := s.withMac { s.mac with blk1Stolen := false, blk2Stolen := false }

/-- `mac.blk1_stolen <- 1` (43_splitter_lower_mac R199). -/
def State.setBlk1Stolen (s : State) : State := s.withMac { s.mac with blk1Stolen := true }

/-- `mac.blk2_stolen <- 1` (45_upper_mac R244). -/
def State.setBlk2Stolen (s : State) : State := s.withMac { s.mac with blk2Stolen := true }

/-- `mac.last_crc_fail` after a CRC-checked sub-block (43_splitter_lower_mac R192): 1 on failure, 0 on success. -/
def State.setLastCrcFail (s : State) (ok : Bool) : State := s.withMac { s.mac with lastCrcFail := !ok }

/-- Whether the current slot carries traffic: every rule tests only whether `mac.is_traffic` is zero (10_state R40). -/
def State.traffic (s : State) : Bool := s.mac.isTraffic != 0

/-- The downlink usage marker an access assignment gives in frame `fn` (45_upper_mac R250, 30_encoding R100): field 1
if the frame is not 18, the header is not 0 and field 1 is above 3; else 0. -/
def usageMarker (fn : BitVec 5) (aach : Bits) : BitVec 6 :=
  if fn ≠ Config.aachFrameWithoutMarker ∧ readField 2 Config.aachHeader aach ≠ Config.aachCommonControl ∧
      Config.aachLastReservedMarker < (readField 6 Config.aachField1 aach).toNat then
    readField 6 Config.aachField1 aach
  else 0

/-- `aach_decode aach snap` (45_upper_mac R249, R250). -/
def State.aachDecode (s : State) (aach : Bits) : State :=
  s.withMac { s.mac with isTraffic := usageMarker s.work.snap.time.fn aach }

end Sys2Proof.Machine
end

