-- ==== Sys2Proof/Machine/Fragments.lean ====
section
/-! DEFINITION. Fragment slots (45_upper_mac R251 to R259): open, append, finalize, cleanup, aging. -/

namespace Sys2Proof.Machine

/-- `frag_cleanup tn` (45_upper_mac R255): the slot takes its reset value. -/
def State.fragCleanup (s : State) (tn : BitVec 3) : State := s.setFrag tn FragSlot.reset

/-- The discarding of a stale slot at a new fragment start (45_upper_mac R252, 60_exceptions R286). -/
def State.fragDiscardStale (s : State) (tn : BitVec 3) : State :=
  if (s.fragAt tn).active then (s.raise .eFragReentry (tn.setWidth 32)).fragCleanup tn else s

/-- `frag_open tn sdu encrypted key` (45_upper_mac R251). -/
def State.fragOpen (s : State) (tn : BitVec 3) (sdu : Bits) (encrypted : Bool) (key : Option Nat) : State :=
  let s := s.fragDiscardStale tn
  if fitsFragBuf sdu.length then
    s.setFrag tn
      { active := true, age := 0, numFrags := 1, length := sdu.length, encrypted := encrypted, key := key, buf := sdu }
  else s.raise .eResource (tn.setWidth 32)

/-- `frag_append tn p` (45_upper_mac R253, R259). -/
def State.fragAppend (s : State) (tn : BitVec 3) (p : Bits) : State :=
  let f := s.fragAt tn
  if fitsFragBuf (f.length + p.length) then
    s.setFrag tn { f with buf := f.buf ++ p, length := f.length + p.length, numFrags := f.numFrags + 1, age := 0 }
  else (s.raise .eResource (tn.setWidth 32)).fragCleanup tn

/-- `frag_finalize tn snap ok` (45_upper_mac R254): nothing if the slot is inactive. -/
def State.fragFinalize (s : State) (tn : BitVec 3) : State :=
  let f := s.fragAt tn
  if f.active then
    (s.emit (.sduInd
      { snap := s.work.snap, kind := .reassembled, crcOk := s.work.crcOk, encMode := if f.encrypted then 1 else 0,
        decrypted := f.encrypted, addr := s.mac.addr, bits := f.buf, l2Off := 0 })).fragCleanup tn
  else s

/-- The aging step for one slot (45_upper_mac R257): cleaned up when the incremented age reaches `N203`
(90_conflicts C1). -/
def State.fragAge (s : State) (tn : BitVec 3) : State :=
  let f := s.fragAt tn
  if f.active then
    if Config.n203 ≤ f.age + 1 then (s.raise .wFragAged (tn.setWidth 32)).fragCleanup tn
    else s.setFrag tn { f with age := f.age + 1 }
  else s

/-- `frag_age_all ()` (45_upper_mac R256, R257): timeslots 1 to 4 in order. -/
def State.fragAgeAll (s : State) : State := (((s.fragAge 1).fragAge 2).fragAge 3).fragAge 4

end Sys2Proof.Machine
end

