-- ==== Sys2Proof/Machine/Operands.lean ====
section
/-! DEFINITION. The operand forms: how each PDU's fields are read from its bits (30_encoding R90 to R100), the
optional elements (45_upper_mac R239, R246) and fill bits (R260). -/

namespace Sys2Proof.Machine

/-- The fields of a SYNC PDU that the core uses (30_encoding R90, 43_splitter_lower_mac R195); `tn` is the coded
value 0 to 3. -/
structure SyncPdu where
  cc : BitVec 6
  tn : BitVec 2
  fn : BitVec 5
  mn : BitVec 6
  mcc : BitVec 10
  mnc : BitVec 14
deriving DecidableEq, Repr

/-- Reads a SYNC PDU (30_encoding R90). -/
def readSyncPdu (v : Bits) : SyncPdu :=
  { cc := readField 6 Config.syncColourCode v, tn := readField 2 Config.syncTimeslot v,
    fn := readField 5 Config.syncFrame v, mn := readField 6 Config.syncMultiframe v,
    mcc := readField 10 Config.syncMcc v, mnc := readField 14 Config.syncMnc v }

/-- Whether the frame and multiframe numbers of a SYNC PDU are in range (43_splitter_lower_mac R194). -/
def SyncPdu.inRange (f : SyncPdu) : Bool :=
  decide (1 ≤ f.fn.toNat ∧ f.fn.toNat ≤ 18 ∧ 1 ≤ f.mn.toNat ∧ f.mn.toNat ≤ 60)

/-- Reads a SYSINFO PDU (30_encoding R91) from its first bit. -/
def readSysinfo (v : Bits) : Sysinfo :=
  { mainCarrier := readField 12 Config.sysMainCarrier v
    frequencyBand := readField 4 Config.sysFrequencyBand v
    offset := readField 2 Config.sysOffset v
    duplexSpacing := readField 3 Config.sysDuplexSpacing v
    reverseOperation := readFlag Config.sysReverseOperation v
    numSecondaryControl := readField 2 Config.sysNumSecondaryControl v
    msTxpwrMaxCell := readField 3 Config.sysMsTxpwrMaxCell v
    rxlevAccessMin := readField 4 Config.sysRxlevAccessMin v
    accessParameter := readField 4 Config.sysAccessParameter v
    radioDownlinkTimeout := readField 4 Config.sysRadioDownlinkTimeout v
    hfCckFlag := readFlag Config.sysHfCckFlag v
    hfCckValue := readField 16 Config.sysHfCckValue v
    optionalFlag := readField 2 Config.sysOptionalFlag v
    optionalValue := readField 20 Config.sysOptionalValue v
    locationArea := readField 14 Config.sysLocationArea v
    subscriberClass := readField 16 Config.sysSubscriberClass v
    bsServiceDetails := readField 12 Config.sysBsServiceDetails v }

/-- The clear header of a MAC-RESOURCE up to the address type (30_encoding R93, 45_upper_mac R235). -/
structure ResHeader where
  fill : Bool
  grant : Bool
  enc : BitVec 2
  ra : Bool
  li : BitVec 6
  addrType : BitVec 3
deriving DecidableEq, Repr

/-- Reads the header of the MAC-RESOURCE at the start of `v`. -/
def readResHeader (v : Bits) : ResHeader :=
  { fill := readFlag Config.resFill v, grant := readFlag Config.resGrant v, enc := readField 2 Config.resEncMode v,
    ra := readFlag Config.resRandomAccess v, li := readField 6 Config.resLengthInd v,
    addrType := readField 3 Config.resAddrType v }

/-- `A`, the address bits of an address type (30_encoding R94). -/
def addrBits (at_ : BitVec 3) : Nat :=
  (if (Config.addrContent at_).ssi then Config.ssiBits else 0) +
    ((if (Config.addrContent at_).eventLabel then Config.eventLabelBits else 0) +
      (if (Config.addrContent at_).usageMarker then Config.usageMarkerBits else 0))

/-- The address record of the MAC-RESOURCE at the start of `v`; parts that are not there are 0 (45_upper_mac R235). -/
def readAddr (v : Bits) : Addr :=
  let at_ := (readResHeader v).addrType
  let has := Config.addrContent at_
  let afterSsi := Config.resAddrOff + (if has.ssi then Config.ssiBits else 0)
  { type := at_
    ssi := if has.ssi then readField 24 { off := Config.resAddrOff, width := Config.ssiBits } v else 0
    eventLabel := if has.eventLabel then readField 10 { off := afterSsi, width := Config.eventLabelBits } v else 0
    usageMarker := if has.usageMarker then readField 6 { off := afterSsi, width := Config.usageMarkerBits } v else 0 }

/-- A one-bit flag at `q` and, if it is 1, an element of `w` bits behind it: the offset behind both, or `none` when
the flag or the element would run past `e` (45_upper_mac R239). -/
def skipFlagged (b : Bits) (w q e : Nat) : Option Nat :=
  if q < e then
    if bitAt b q then (if q + 1 + w ≤ e then some (q + 1 + w) else none) else some (q + 1)
  else none

/-- The channel allocation flag at `q` and, if it is 1, the element behind it (45_upper_mac R239, R240). -/
def skipChanAlloc (b : Bits) (q e : Nat) : Option Nat :=
  if q < e then
    if bitAt b q then (Config.chanAllocLen (slice b (q + 1) (e - (q + 1)))).map fun c => q + 1 + c else some (q + 1)
  else none

/-- The optional elements of a MAC-RESOURCE from `h` to `e` (45_upper_mac R239): the offset of the TM-SDU. -/
def resourceElements (b : Bits) (h e : Nat) : Option Nat :=
  ((skipFlagged b Config.powerControlBits h e).bind fun q => skipFlagged b Config.slotGrantingBits q e).bind
    fun q => skipChanAlloc b q e

/-- The optional elements of a MAC-END from `h` to `e` (45_upper_mac R246): the offset of the TM-SDU. -/
def endElements (b : Bits) (h e : Nat) : Option Nat :=
  (skipFlagged b Config.slotGrantingBits h e).bind fun q => skipChanAlloc b q e

/-- The 1-based position of the first 1. -/
def firstOne : Bits → Option Nat
  | [] => none
  | true :: _ => some 1
  | false :: v => (firstOne v).map (· + 1)

/-- `fill_count v` (45_upper_mac R260): the distance of the last 1 from the end, the 1 included. -/
def fillCount (v : Bits) : Option Nat := firstOne v.reverse

end Sys2Proof.Machine
end

