-- ==== Sys2Proof/Machine/UpperMac.lean ====
section
/-! DEFINITION. The upper MAC (45_upper_mac): the PDU loop, the dispatcher, and the operations its encodings select,
each with the meaning of its row. A handler works on the PDU buffer from `pdu.l1` on, the snapshot and `crcOk` in the
working registers, and leaves what it returns in `consumed`. -/

namespace Sys2Proof.Machine

/-- The bits of the PDU buffer from the current PDU on. -/
def State.pduRest (s : State) : Bits := s.work.pdu.bits.drop s.pduPos

/-- `rem`: how many bits are left from the current PDU on (45_upper_mac R235). -/
def State.pduRem (s : State) : Nat := s.work.pdu.bits.length - s.pduPos

/-- Fill-bit stripping (45_upper_mac R241) of the TM-SDU from `q` to `e`: the new end. -/
def stripFill (fill : Bool) (q e : Nat) (s : State) : Nat × State :=
  if fill then
    match fillCount (slice s.work.pdu.bits q (e - q)) with
    | none => (e, s.raise .wNoFillOne (s.snapTn.setWidth 32))
    | some r => (e - r, s)
  else (e, s)

/-! BROADCAST (45_upper_mac R233, R234). -/

/-- BROADCAST, SYSINFO (45_upper_mac R234): done whether the CRC passed or not. -/
def broadcastSysinfo (s : State) : State :=
  if s.pduRem < Config.sysinfoBits then (s.raiseNat .wPduLen s.pduRem).consume .whole
  else
    let f := readSysinfo s.pduRest
    let s := (s.setSysinfo f).cryptoOnSysinfo f
    (if f.hfCckFlag then s else s.withTime (s.time.setHn f.hfCckValue)).consume .whole

/-- BROADCAST, ACCESS-DEFINE (45_upper_mac R233): consumed, nothing decoded. -/
def broadcastAccessDefine (s : State) : State := s.consume .whole

/-- BROADCAST, types `10` and `11` (45_upper_mac R233): consumed, nothing decoded. -/
def broadcastOther (_b : Bool) (s : State) : State := s.consume .whole

/-! MAC-RESOURCE (45_upper_mac R235 to R244, R261). -/

/-- Where the TM-SDU of a MAC-RESOURCE stands after decryption, optional elements and fill stripping. -/
structure Body where
  decrypted : Bool
  q : Nat
  e : Nat
deriving DecidableEq, Repr

/-- Decryption of a MAC-RESOURCE whose PDU ends at `e` (45_upper_mac R238, R261): `none` when the PDU stays opaque, else
whether it was decrypted. `frag` says that the PDU starts a fragmentation. -/
def resourceDecrypt (hdr : ResHeader) (startFrag : Bool) (h e : Nat) (s : State) : Option Bool × State :=
  if hdr.enc = Config.resEncClear then (some false, s)
  else
    let s := if startFrag then s.fragDiscardStale s.snapTn else s
    match decryptMacElement s.cs.cck h (e - h) s with
    | (true, s) => (some true, s)
    | (false, s) => (none, s.raise .eNoCrypto (hdr.enc.setWidth 32))

/-- From the end of the address to the TM-SDU of a MAC-RESOURCE of `n` bits (45_upper_mac R238 to R241): decryption
first, then the optional elements, then fill bits. `none` when the PDU is dropped on the way. -/
def resourceBody (hdr : ResHeader) (li : BitVec 6) (n : Nat) (s : State) : Option Body × State :=
  let h := s.pduPos + Config.resAddrOff + addrBits hdr.addrType
  let e := s.pduPos + n
  match resourceDecrypt hdr (li == Config.liStartOfFragmentation) h e s with
  | (none, s) => (none, s)
  | (some decrypted, s) =>
    match resourceElements s.work.pdu.bits h e with
    | none => (none, s.raise .wPduLen (li.setWidth 32))
    | some q =>
      let r := stripFill hdr.fill q e s
      (some { decrypted := decrypted, q := q, e := r.1 }, r.2)

/-- Delivery of a MAC-RESOURCE (45_upper_mac R242). -/
def deliverResource (hdr : ResHeader) (b : Body) (s : State) : State :=
  (s.setL2 b.q).emit (.sduInd
    { snap := s.work.snap, kind := .resource, crcOk := s.work.crcOk, encMode := hdr.enc, decrypted := b.decrypted,
      addr := s.mac.addr, bits := slice s.work.pdu.bits s.pduPos (b.e - s.pduPos), l2Off := b.q - s.pduPos })

/-- A length indication that gives no length in octets (30_encoding R95). -/
def lengthReserved (li : BitVec 6) : Bool :=
  decide (li.toNat < Config.liMinOctets) || decide (Config.liMaxOctets < li.toNat)

/-- The number of bits a length in octets gives, clipped to the block with a warning (45_upper_mac R237, R246). -/
def clipLength (li : BitVec 6) (s : State) : Nat × State :=
  if s.pduRem < Config.liUnitBits * li.toNat then (s.pduRem, s.raise .wPduLen (li.setWidth 32))
  else (Config.liUnitBits * li.toNat, s)

/-- LI_OCTETS `l` (45_upper_mac R237 to R242): a PDU of `8 × l` bits for `l` 1 to 34, clipped to the block; any other
value is reserved. -/
def liOctets (l : BitVec 6) (s : State) : State :=
  let hdr := readResHeader s.pduRest
  if lengthReserved l then (s.raise .wPduLen (l.setWidth 32)).consume .whole
  else
    let n := (clipLength l s).1
    let s := (clipLength l s).2
    if n < Config.resAddrOff + addrBits hdr.addrType + Config.resFlagBits then
      (s.raise .wPduLen (l.setWidth 32)).consume .whole
    else
      match resourceBody hdr l n s with
      | (none, s) => s.consume (.bits n)
      | (some b, s) => (deliverResource hdr b s).consume (.bits n)

/-- LI_SECOND_HALF_STOLEN (45_upper_mac R237, R244): the PDU fills the rest of the block; the flag is set when the PDU
is delivered (log 15). -/
def liSecondHalfStolen (s : State) : State :=
  let hdr := readResHeader s.pduRest
  match resourceBody hdr Config.liSecondHalfStolen s.pduRem s with
  | (none, s) => s.consume .whole
  | (some b, s) => (deliverResource hdr b s.setBlk2Stolen).consume .whole

/-- LI_START_OF_FRAGMENTATION (45_upper_mac R237, R243): the TM-SDU opens the fragment slot, nothing is delivered. -/
def liStartOfFragmentation (s : State) : State :=
  let hdr := readResHeader s.pduRest
  match resourceBody hdr Config.liStartOfFragmentation s.pduRem s with
  | (none, s) => s.consume .whole
  | (some b, s) =>
    (s.fragOpen s.snapTn (slice s.work.pdu.bits b.q (b.e - b.q)) b.decrypted
      (if b.decrypted then s.cs.cck else none)).consume .whole

/-- The operation a length indication selects (45_upper_mac R237). -/
def lengthDispatch (li : BitVec 6) (s : State) : State :=
  match decodeLengthInd li with
  | .liOctets l => liOctets l s
  | .liSecondHalfStolen => liSecondHalfStolen s
  | .liStartOfFragmentation => liStartOfFragmentation s
  | _ => s.consume .whole

/-- MAC-RESOURCE (45_upper_mac R235, R236): the header, the null PDU, the address; then what the length indication
selects. -/
def macResource (s : State) : State :=
  let hdr := readResHeader s.pduRest
  if hdr.addrType = Config.addrTypeNull then s.consume .whole
  else if s.pduRem < Config.resAddrOff + addrBits hdr.addrType then (s.raiseNat .wPduLen s.pduRem).consume .whole
  else lengthDispatch hdr.li (s.setAddr (readAddr s.pduRest))

/-! MAC-FRAG and MAC-END (45_upper_mac R245 to R247). -/

/-- Decryption of a fragment from `q` to `e` when its slot was opened as encrypted: whether parsing may go on
(45_upper_mac R245, R246); a failure reports `E_NO_CRYPTO` and cleans the slot up. -/
def fragmentDecrypt (q e : Nat) (s : State) : Bool × State :=
  let f := s.fragAt s.snapTn
  if f.encrypted then
    match decryptMacElement f.key q (e - q) s with
    | (true, s) => (true, s)
    | (false, s) => (false, (s.raise .eNoCrypto 1).fragCleanup s.snapTn)
  else (true, s)

/-- MAC-FRAG (45_upper_mac R245): always fills the rest of its block. -/
def macFrag (s : State) : State :=
  let fill := readFlag Config.fragFill s.pduRest
  let e := s.work.pdu.bits.length
  let q := s.pduPos + Config.fragSduOff
  if (s.fragAt s.snapTn).active then
    match fragmentDecrypt q e s with
    | (false, s) => s.consume .whole
    | (true, s) =>
      let r := stripFill fill q e s
      (r.2.fragAppend r.2.snapTn (slice r.2.work.pdu.bits q (r.1 - q))).consume .whole
  else (s.raise .wFragNoSlot (s.snapTn.setWidth 32)).consume .whole

/-- The tail of a MAC-END of `n` bits on an active slot (45_upper_mac R246): decryption, optional elements, fill, append,
finalize. -/
def endBody (fill : Bool) (li : BitVec 6) (n : Nat) (s : State) : State :=
  let h := s.pduPos + Config.endElementsOff
  let e := s.pduPos + n
  match fragmentDecrypt h e s with
  | (false, s) => s
  | (true, s) =>
    match endElements s.work.pdu.bits h e with
    | none => (s.raise .wPduLen (li.setWidth 32)).fragCleanup s.snapTn
    | some q =>
      let r := stripFill fill q e s
      (r.2.fragAppend r.2.snapTn (slice r.2.work.pdu.bits q (r.1 - q))).fragFinalize r.2.snapTn

/-- MAC-END (45_upper_mac R246). -/
def macEnd (s : State) : State :=
  let fill := readFlag Config.endFill s.pduRest
  let li := readField 6 Config.endLengthInd s.pduRest
  if lengthReserved li then (s.raise .wPduLen (li.setWidth 32)).consume .whole
  else
    let n := (clipLength li s).1
    let s := (clipLength li s).2
    if n < Config.minPduBits then (s.raise .wPduLen (li.setWidth 32)).consume .whole
    else if (s.fragAt s.snapTn).active then (endBody fill li n s).consume (.bits n)
    else (s.raise .wFragNoSlot (s.snapTn.setWidth 32)).consume (.bits n)

/-! MAC-SUPPLEMENTARY (45_upper_mac R248). -/

/-- MAC-SUPPLEMENTARY (45_upper_mac R248): header skip, then forward undecrypted and unstripped. -/
def macSupplementary (s : State) : State :=
  let rem := s.pduRem
  if rem < Config.supSduOff then (s.raiseNat .wPduLen rem).consume .whole
  else
    let skip := Config.supSduOff + (if readFlag Config.supSlotGranting s.pduRest then Config.slotGrantingBits else 0)
    if rem < skip then (s.raiseNat .wPduLen rem).consume .whole
    else
      (s.emit (.sduInd
        { snap := s.work.snap, kind := .suppl, crcOk := s.work.crcOk, encMode := readField 2 Config.supEncMode s.pduRest,
          decrypted := false, addr := none, bits := s.pduRest, l2Off := skip })).consume .whole

/-! The dispatcher and the PDU loop (45_upper_mac R230 to R232). -/

/-- `umac_pdu pos snap ok` (45_upper_mac R232): the operation the prefix selects. With at least 16 bits there, the
prefix is always one of the seven. -/
def umacPdu (s : State) : State :=
  match decodePdu s.pduRest with
  | .instr .macResource => macResource s
  | .instr .macFrag => macFrag s
  | .instr .macEnd => macEnd s
  | .instr .broadcastSysinfo => broadcastSysinfo s
  | .instr .broadcastAccessDefine => broadcastAccessDefine s
  | .instr (.broadcastOther b) => broadcastOther b s
  | .instr .macSupplementary => macSupplementary s
  | _ => s.consume .whole

/-- The PDU loop (45_upper_mac R231) from offset `pos`. Every handler takes at least 16 bits, so as many rounds as the
block has bits are never used up (log 25). -/
def umacLoop : Nat → Nat → State → State
  | 0, _, s => s
  | fuel + 1, pos, s =>
    if s.work.pdu.bits.length < pos + Config.minPduBits then s
    else
      let s := umacPdu (s.setL1 pos)
      match s.work.consumed with
      | .whole => s
      | .bits c => umacLoop fuel (pos + c) s

/-- `umac_block type1 snap ok` (45_upper_mac R230). -/
def umacBlock (type1 : Bits) (ok : Bool) (s : State) : State :=
  umacLoop type1.length 0 (((s.loadPdu type1).setL1 0).setCrcOk ok)

/-! The meanings of the rows. The operand is the PDU at `pdu.l1` of the PDU buffer. -/

/-- A MAC PDU stands at `pdu.l1`: the offset is set and at least `MIN_PDU_BITS` bits are left (45_upper_mac R231). -/
def State.hasPdu (s : State) : Bool :=
  match s.work.pdu.l1 with
  | none => false
  | some pos => decide (pos + Config.minPduBits ≤ s.work.pdu.bits.length)

/-- A MAC-RESOURCE header with its whole address stands at `pdu.l1` (45_upper_mac R235). -/
def State.hasResHeader (s : State) : Bool :=
  s.hasPdu && decide (Config.resAddrOff + addrBits (readResHeader s.pduRest).addrType ≤ s.pduRem)

/-- MAC_RESOURCE (45_upper_mac R235 to R244, R261). -/
def execMacResource (s : State) : Host.Outcome State Fault Refusal :=
  if s.hasPdu then .next (macResource s) else .fault .pduAbsent

/-- MAC_FRAG (45_upper_mac R245, R247). -/
def execMacFrag (s : State) : Host.Outcome State Fault Refusal :=
  if s.hasPdu then .next (macFrag s) else .fault .pduAbsent

/-- MAC_END (45_upper_mac R246, R247). -/
def execMacEnd (s : State) : Host.Outcome State Fault Refusal :=
  if s.hasPdu then .next (macEnd s) else .fault .pduAbsent

/-- BROADCAST_SYSINFO (45_upper_mac R233, R234). -/
def execBroadcastSysinfo (s : State) : Host.Outcome State Fault Refusal :=
  if s.hasPdu then .next (broadcastSysinfo s) else .fault .pduAbsent

/-- BROADCAST_ACCESS_DEFINE (45_upper_mac R233). -/
def execBroadcastAccessDefine (s : State) : Host.Outcome State Fault Refusal :=
  if s.hasPdu then .next (broadcastAccessDefine s) else .fault .pduAbsent

/-- BROADCAST_OTHER (45_upper_mac R233). -/
def execBroadcastOther (b : Bool) (s : State) : Host.Outcome State Fault Refusal :=
  if s.hasPdu then .next (broadcastOther b s) else .fault .pduAbsent

/-- MAC_SUPPLEMENTARY (45_upper_mac R248). -/
def execMacSupplementary (s : State) : Host.Outcome State Fault Refusal :=
  if s.hasPdu then .next (macSupplementary s) else .fault .pduAbsent

/-- LI_OCTETS (45_upper_mac R237 to R242). -/
def execLiOctets (l : BitVec 6) (s : State) : Host.Outcome State Fault Refusal :=
  if s.hasResHeader then .next (liOctets l s) else .fault .headerAbsent

/-- LI_SECOND_HALF_STOLEN (45_upper_mac R244). -/
def execLiSecondHalfStolen (s : State) : Host.Outcome State Fault Refusal :=
  if s.hasResHeader then .next (liSecondHalfStolen s) else .fault .headerAbsent

/-- LI_START_OF_FRAGMENTATION (45_upper_mac R243). -/
def execLiStartOfFragmentation (s : State) : Host.Outcome State Fault Refusal :=
  if s.hasResHeader then .next (liStartOfFragmentation s) else .fault .headerAbsent

end Sys2Proof.Machine
end

