-- ==== Sys2Proof/Machine/Viterbi.lean ====
section
/-! DEFINITION. The Viterbi decoder (41_codecs R146 to R155) over unbounded integers, so that no renormalization is
needed (R150). A path metric is `none` for minus infinity. -/

namespace Sys2Proof

/-- A path metric: `none` is minus infinity. -/
abbrev Metric := Option Int

/-- A sum with minus infinity is minus infinity (41_codecs R149). -/
def metricAdd : Metric → Int → Metric
  | none, _ => none
  | some m, x => some (m + x)

/-- `a ≥ b` on path metrics. -/
def metricGe : Metric → Metric → Bool
  | _, none => true
  | none, some _ => false
  | some a, some b => decide (b ≤ a)

/-- The number of trellis states (41_codecs R147). -/
def numStates (cfg : ViterbiCfg) : Nat := 2 ^ (cfg.K - 1)

/-- `pred s' x` (41_codecs R147). -/
def trellisPred (cfg : ViterbiCfg) (s : Nat) (x : Bool) : Nat := ((s <<< 1) % numStates cfg) ||| x.toNat

/-- The input bit that leads into a state (41_codecs R147): `s' >> (K - 2)`. -/
def trellisInput (cfg : ViterbiCfg) (s : Nat) : Bool := (s >>> (cfg.K - 2)).testBit 0

/-- The inner product of received symbols against the expected outputs, `e 0 = +1`, `e 1 = -1` (41_codecs R148). -/
def correlate : List Soft → Bits → Int
  | r :: rs, b :: bs => (if b then -r else r) + correlate rs bs
  | _, _ => 0

/-- `bm t s b` (41_codecs R148) for the `N` received symbols of step `t`. -/
def branchMetric (cfg : ViterbiCfg) (r : List Soft) (s : Nat) (b : Bool) : Int :=
  correlate r (convOuts cfg.N cfg.K cfg.gen s b)

/-- Add-compare-select for one state (41_codecs R149): the new metric and the survivor bit; ties go to `x = 0`. -/
def acsState (cfg : ViterbiCfg) (pm : List Metric) (r : List Soft) (s : Nat) : Metric × Bool :=
  let b := trellisInput cfg s
  let p0 := trellisPred cfg s false
  let p1 := trellisPred cfg s true
  let c0 := metricAdd (pm.getD p0 none) (branchMetric cfg r p0 b)
  let c1 := metricAdd (pm.getD p1 none) (branchMetric cfg r p1 b)
  if metricGe c0 c1 then (c0, false) else (c1, true)

/-- One step of the forward recursion: the new metrics and the row of survivor bits. -/
def acsStep (cfg : ViterbiCfg) (pm : List Metric) (r : List Soft) : List Metric × List Bool :=
  let cells := (List.range (numStates cfg)).map (acsState cfg pm r)
  (cells.map Prod.fst, cells.map Prod.snd)

/-- The received symbols of steps 0 to `L - 1`, `N` each. -/
def symbolGroups (N L : Nat) (r : List Soft) : List (List Soft) :=
  (List.range L).map fun t => slice r (N * t) N

/-- The forward recursion (41_codecs R149): the last metrics and the survivor table, first step first. -/
def forward (cfg : ViterbiCfg) : List Metric → List (List Soft) → List Metric × List (List Bool)
  | pm, [] => (pm, [])
  | pm, r :: rs =>
    let step := acsStep cfg pm r
    let rest := forward cfg step.1 rs
    (rest.1, step.2 :: rest.2)

/-- `pm_0` (41_codecs R155). -/
def startMetrics (cfg : ViterbiCfg) : List Metric :=
  (List.range (numStates cfg)).map fun s =>
    match cfg.term with
    | .tailBiting => some 0
    | .flush | .truncation => if s = 0 then some 0 else none

/-- Traceback (41_codecs R152) over the survivor rows, last step first: the state at step 0 and the bits in order. -/
def tracebackFrom (cfg : ViterbiCfg) : Nat → List (List Bool) → Bits → Nat × Bits
  | s, [], u => (s, u)
  | s, row :: rows, u => tracebackFrom cfg (trellisPred cfg s (row.getD s false)) rows (trellisInput cfg s :: u)

/-- Traceback from end state `s` over the survivor table, first step first. -/
def traceback (cfg : ViterbiCfg) (surv : List (List Bool)) (s : Nat) : Nat × Bits :=
  tracebackFrom cfg s surv.reverse []

/-- Insert a state into a list kept in descending order of metric, behind those with a metric at least as large. -/
def insertByMetric (pm : List Metric) (s : Nat) : List Nat → List Nat
  | [] => [s]
  | q :: qs => if metricGe (pm.getD q none) (pm.getD s none) then q :: insertByMetric pm s qs else s :: q :: qs

/-- The states in descending order of metric, lowest index first among equals (41_codecs R151). -/
def statesByMetric (cfg : ViterbiCfg) (pm : List Metric) : List Nat :=
  (List.range (numStates cfg)).foldl (fun l s => insertByMetric pm s l) []

/-- The end state (41_codecs R151). -/
def endState (cfg : ViterbiCfg) (pm : List Metric) (surv : List (List Bool)) : Nat :=
  match cfg.term with
  | .flush => 0
  | .truncation => (statesByMetric cfg pm).headD 0
  | .tailBiting =>
    ((statesByMetric cfg pm).find? fun s => (traceback cfg surv s).1 == s).getD ((statesByMetric cfg pm).headD 0)

/-- The forward half of the decoder: final metrics and survivor table for `L = len r div N` steps (41_codecs R146). -/
def viterbiForward (cfg : ViterbiCfg) (r : List Soft) : List Metric × List (List Bool) :=
  forward cfg (startMetrics cfg) (symbolGroups cfg.N (r.length / cfg.N) r)

/-- The backward half: end state and traceback (41_codecs R151, R152). -/
def viterbiBackward (cfg : ViterbiCfg) (pm : List Metric) (surv : List (List Bool)) : Bits :=
  (traceback cfg surv (endState cfg pm surv)).2

/-- `viterbi cfg r` (41_codecs R146). -/
def viterbi (cfg : ViterbiCfg) (r : List Soft) : Bits :=
  viterbiBackward cfg (viterbiForward cfg r).1 (viterbiForward cfg r).2

/-- The control-channel configuration (41_codecs R153). -/
def cchCfg : ViterbiCfg := { N := Config.convN, K := Config.convK, gen := Config.convGen, term := .flush }

/-- `viterbi_cch r` (41_codecs R153). -/
def viterbiCch (r : List Soft) : Bits := viterbi cchCfg r

end Sys2Proof
end

