-- ==== Sys2Proof/Machine/LowerMac.lean ====
section
/-! DEFINITION. The lower MAC (43_splitter_lower_mac R186 to R202): the per-sub-block pipeline, the SB1 commit, the BBK
and voice paths, and the meanings of the sub-block rows. -/

namespace Sys2Proof.Machine

/-! The stages. Each rewrites the PDU buffer (20_memory R62) and leaves its working register behind. -/

/-- Descrambling (43_splitter_lower_mac R188, 41_codecs R127 to R129): the LFSR is loaded with `init` and run over the
bits of the PDU buffer. -/
def State.stageDescramble (s : State) (init : BitVec 32) : State :=
  let run := scrambleRun init s.work.pdu.bits.length
  (s.setPduBits (xorBits s.work.pdu.bits run.1)).setLfsr run.2

/-- Deinterleaving (43_splitter_lower_mac R189). -/
def State.stageDeinterleave (s : State) (K a : Nat) : State :=
  s.setPduBits (blockDeinterleave false K a s.work.pdu.bits)

/-- Soft mapping, depuncturing and the forward half of the Viterbi decoder (43_splitter_lower_mac R190): fills the
trellis registers. -/
def State.stageForward (s : State) (n2 : Nat) : State :=
  let t := viterbiForward cchCfg (depuncture Config.punct23 (s.work.pdu.bits.map soft) (Config.convN * n2))
  s.setTrellis t.1 t.2

/-- The backward half of the Viterbi decoder: the type-2 bits (43_splitter_lower_mac R190). -/
def State.stageTraceback (s : State) : State :=
  s.setPduBits (viterbiBackward cchCfg s.work.pm s.work.surv)

/-- The CRC over payload and check bits (43_splitter_lower_mac R191): fills the accumulator. -/
def State.stageCrc (s : State) (n1 : Nat) : State :=
  s.setCrc (crc16 Config.crcSeed (slice s.work.pdu.bits 0 (n1 + 16)))

/-- Whether the accumulator holds the accepting residue (41_codecs R122). -/
def State.crcGood (s : State) : Bool := s.work.crc == Config.crcResidue

/-- The coded pipeline from type-4 bits to the CRC result (43_splitter_lower_mac R189 to R191): afterwards the PDU
buffer holds the type-2 bits and `crcGood` is the check. -/
def State.stageDecode (s : State) (p : BlockParams) : State :=
  (((s.stageDeinterleave p.K (p.a.getD 0)).stageForward p.n2).stageTraceback).stageCrc p.n1

/-! What becomes of the decoded bits. -/

/-- SB1 commit (43_splitter_lower_mac R194) of the SYNC PDU `type1`, done only when the CRC passed. -/
def State.commitSync (s : State) (type1 : Bits) : State :=
  let f := readSyncPdu type1
  if f.inRange then
    let s := s.withCell
      { mcc := f.mcc, mnc := f.mnc, cc := f.cc,
        scrambInit := scrambInit f.mcc.toNat f.mnc.toNat f.cc.toNat, valid := true }
    let s := s.withTime (s.time.setFromSync (f.tn.setWidth 3 + Config.syncFirstTimeslot) f.fn f.mn)
    s.cryptoOnSync f.mcc f.mnc f.cc
  else s.raiseNat .wSyncFieldRange ((f.fn.toNat <<< 8) ||| f.mn.toNat)

/-- BBK path (43_splitter_lower_mac R196): accepted unconditionally. -/
def State.bbkPath (s : State) : State :=
  let aach := rmDecode s.work.pdu.bits
  (s.emit (.blockInd s.work.snap .bbk true aach)).aachDecode aach

/-- Voice path (43_splitter_lower_mac R200, R201): soft mapping, decryption at the configured point, the event. -/
def State.voicePath (s : State) : State :=
  let v := s.work.pdu.bits.map soft
  let r := match Config.voiceDecryptPoint with
    | .softType4 => decryptVoice v s
    | .insideVoiceChain => (false, v, s)
  r.2.2.emit (.voiceInd r.2.2.work.snap r.1 r.2.1)

/-- The result of the CRC check (43_splitter_lower_mac R187, R192): the flag, the diagnostic on failure, the event. -/
def State.reportBlock (s : State) (sb : SubBlock) (type1 : Bits) : State :=
  let ok := s.crcGood
  let s := s.setLastCrcFail ok
  let s := if ok then s else s.raiseNat .eCrcFail (subBlockCode sb)
  s.emit (.blockInd s.work.snap sb ok type1)

/-- From the type-4 bits of a coded sub-block on (43_splitter_lower_mac R187): decode, check, report, then the SB1
commit or the upper MAC (R194, R197). -/
def State.codedPath (s : State) (sb : SubBlock) : State :=
  let p := Config.blockParams sb
  let s := s.stageDecode p
  let type1 := slice s.work.pdu.bits 0 p.n1
  let ok := s.crcGood
  let s := s.reportBlock sb type1
  if sb = .sb1 then (if ok then s.commitSync type1 else s) else umacBlock type1 ok s

/-- `lower_mac sb type5 blk_num` (43_splitter_lower_mac R187). The PDU buffer is created on entry and dies at the end
(10_state R26). -/
def lowerMac (sb : SubBlock) (type5 : Bits) (blk : BitVec 2) (s : State) : State :=
  if sb ≠ .sb1 ∧ s.cell.valid = false then s.dropPdu
  else
    let s := (s.takeSnap sb blk).loadPdu type5
    let s := if sb = .ndb ∧ blk = 1 ∧ s.traffic then s.setBlk1Stolen else s
    let s := s.stageDescramble (if sb = .sb1 then scrambInitSb1 else s.cell.scrambInit)
    (if sb = .bbk then s.bbkPath
     else if sb = .schF ∧ s.traffic then s.voicePath
     else s.codedPath sb).dropPdu

/-! The operations of the rows, each with its block number (43_splitter_lower_mac R198). -/

/-- SB1: block number 1. -/
def sb1 (type5 : Bits) (s : State) : State := lowerMac .sb1 type5 1 s

/-- SB2: block number 2. -/
def sb2 (type5 : Bits) (s : State) : State := lowerMac .sb2 type5 2 s

/-- NDB: block number 1 for the first, 2 for the second half. -/
def ndb (type5 : Bits) (blk : BitVec 2) (s : State) : State := lowerMac .ndb type5 blk s

/-- BBK: block number 0. -/
def bbk (type5 : Bits) (s : State) : State := lowerMac .bbk type5 0 s

/-- SCH_HU: parameters and no caller (43_splitter_lower_mac R186); the caller gives the block number (log 16). -/
def schHu (type5 : Bits) (blk : BitVec 2) (s : State) : State := lowerMac .schHu type5 blk s

/-- SCH_F: block number 1. -/
def schF (type5 : Bits) (s : State) : State := lowerMac .schF type5 1 s

/-! The meanings of the rows. The operand, the sub-block's type-5 bits, stands in the PDU buffer; where the block number
is an argument, it stands in `snap.blk_num` (log 17). -/

/-- The PDU buffer holds exactly the type-5 bits of a sub-block (30_encoding R89). -/
def State.hasSubBlock (s : State) (sb : SubBlock) : Bool := s.work.pdu.bits.length == (Config.blockParams sb).K

/-- SB1 (43_splitter_lower_mac R187, R194). -/
def execSb1 (s : State) : Host.Outcome State Fault Refusal :=
  if s.hasSubBlock .sb1 then .next (sb1 s.work.pdu.bits s) else .fault .subBlockAbsent

/-- SB2 (43_splitter_lower_mac R187, R197). -/
def execSb2 (s : State) : Host.Outcome State Fault Refusal :=
  if s.hasSubBlock .sb2 then .next (sb2 s.work.pdu.bits s) else .fault .subBlockAbsent

/-- NDB (43_splitter_lower_mac R187, R197, R199). -/
def execNdb (s : State) : Host.Outcome State Fault Refusal :=
  if s.hasSubBlock .ndb then .next (ndb s.work.pdu.bits s.work.snap.blkNum s) else .fault .subBlockAbsent

/-- BBK (43_splitter_lower_mac R196). -/
def execBbk (s : State) : Host.Outcome State Fault Refusal :=
  if s.hasSubBlock .bbk then .next (bbk s.work.pdu.bits s) else .fault .subBlockAbsent

/-- SCH_HU (43_splitter_lower_mac R186, R187). -/
def execSchHu (s : State) : Host.Outcome State Fault Refusal :=
  if s.hasSubBlock .schHu then .next (schHu s.work.pdu.bits s.work.snap.blkNum s) else .fault .subBlockAbsent

/-- SCH_F (43_splitter_lower_mac R187, R197, R200). -/
def execSchF (s : State) : Host.Outcome State Fault Refusal :=
  if s.hasSubBlock .schF then .next (schF s.work.pdu.bits s) else .fault .subBlockAbsent

end Sys2Proof.Machine
end

