-- ==== Sys2Proof/Machine/Bursts.lean ====
section
/-! DEFINITION. The burst splitter (43_splitter_lower_mac R180 to R185): each training sequence selects a split of the
slot into sub-blocks. -/

namespace Sys2Proof.Machine

/-- The bits of `slot` at a field of a burst map. -/
def mapped (slot : Bits) (f : Field) : Bits := slice slot f.off f.width

/-- The broadcast block of a normal burst, reassembled from two discontiguous fragments (30_encoding R87). -/
def normBbk (slot : Bits) : Bits := mapped slot Config.mapNormBbk1 ++ mapped slot Config.mapNormBbk2

/-- The start of `burst_dispatch` (43_splitter_lower_mac R180, R185): stolen flags cleared, `BURST_IND`. -/
def State.openBurst (s : State) (ty : TrainType) : State := s.clearStolen.emit (.burstInd s.time ty)

/-- SYNC burst (43_splitter_lower_mac R181): SB1, BBK, SB2 in this order. -/
def burstSync (slot : Bits) (s : State) : State :=
  let s := sb1 (mapped slot Config.mapSyncSb1) (s.openBurst .sync)
  let s := bbk (mapped slot Config.mapSyncBbk) s
  sb2 (mapped slot Config.mapSyncSb2) s

/-- NORM_1 burst (43_splitter_lower_mac R182): BBK, SCH_F. -/
def burstNorm1 (slot : Bits) (s : State) : State :=
  let s := bbk (normBbk slot) (s.openBurst .norm1)
  schF (mapped slot Config.mapNormBlk1 ++ mapped slot Config.mapNormBlk2) s

/-- NORM_2 burst (43_splitter_lower_mac R183): BBK, NDB block 1, NDB block 2. -/
def burstNorm2 (slot : Bits) (s : State) : State :=
  let s := bbk (normBbk slot) (s.openBurst .norm2)
  let s := ndb (mapped slot Config.mapNormBlk1) 1 s
  ndb (mapped slot Config.mapNormBlk2) 2 s

/-- `burst_dispatch ty slot` (43_splitter_lower_mac R180); `NORM_3` and `EXT` are never reported by the detector
(30_encoding R84). -/
def burstDispatch (ty : TrainType) (slot : Bits) (s : State) : State :=
  match ty with
  | .sync => burstSync slot s
  | .norm1 => burstNorm1 slot s
  | .norm2 => burstNorm2 slot s
  | .norm3 => s
  | .ext => s

/-- `slot`: the oldest 510 bits of M1 (42_burst_sync R167). -/
def State.slot (s : State) : Bits := slice s.sync.bitbuf 0 Config.bitsPerTs

/-- M1 holds a whole slot. -/
def State.hasSlot (s : State) : Bool := decide (Config.bitsPerTs ≤ s.bitbufLen)

/-! The meanings of the rows. The operand is the slot at the front of M1, which the splitter only reads (20_memory
R60). -/

/-- TSQ_SYNC (43_splitter_lower_mac R180, R181). -/
def execTsqSync (s : State) : Host.Outcome State Fault Refusal :=
  if s.hasSlot then .next (burstSync s.slot s) else .fault .slotAbsent

/-- TSQ_NORM_1 (43_splitter_lower_mac R180, R182). -/
def execTsqNorm1 (s : State) : Host.Outcome State Fault Refusal :=
  if s.hasSlot then .next (burstNorm1 s.slot s) else .fault .slotAbsent

/-- TSQ_NORM_2 (43_splitter_lower_mac R180, R183). -/
def execTsqNorm2 (s : State) : Host.Outcome State Fault Refusal :=
  if s.hasSlot then .next (burstNorm2 s.slot s) else .fault .slotAbsent

end Sys2Proof.Machine
end

