-- ==== Sys2Proof/Machine/BurstSync.lean ====
section
/-! DEFINITION. The burst synchronizer and training-sequence detector (42_burst_sync). -/

namespace Sys2Proof.Machine

/-- Whether the pattern of `ty` stands at the front of `v`, within `TSQ_MAX_ERR` errors (42_burst_sync R162). -/
def matchesAt (ty : TrainType) (v : Bits) : Bool :=
  match Config.tsq ty with
  | none => false
  | some pat => decide (pat.length ≤ v.length) && decide (hamming (v.take pat.length) pat ≤ Config.tsqMaxErr)

/-- The first type of the search order SYNC, NORM_1, NORM_2 that is in the mask and stands at the front of `v`. -/
def matchHere (mask : List TrainType) (v : Bits) : Option TrainType :=
  [TrainType.sync, TrainType.norm1, TrainType.norm2].find? fun ty => mask.contains ty && matchesAt ty v

/-- The search from offset `off` on. -/
def findTrainSeqFrom (mask : List TrainType) : Nat → Bits → Option (TrainType × Nat)
  | _, [] => none
  | off, b :: v =>
    match matchHere mask (b :: v) with
    | some ty => some (ty, off)
    | none => findTrainSeqFrom mask (off + 1) v

/-- `find_train_seq v mask` (42_burst_sync R162): the first match in offset order. -/
def findTrainSeq (v : Bits) (mask : List TrainType) : Option (TrainType × Nat) := findTrainSeqFrom mask 0 v

/-- A change of `sync_state` with its event. -/
def State.moveSync (s : State) (new : SyncState) : State :=
  (s.setSyncState new).emit (.syncInd s.sync.state new)

/-- The step in `UNLOCKED` (42_burst_sync R163, R164). -/
def unlockedStep (s : State) : State :=
  match findTrainSeq s.sync.bitbuf [.sync] with
  | none =>
    if Config.unlockedKeep < s.bitbufLen then s.bitbufDiscard (s.bitbufLen - Config.unlockedKeep) else s
  | some (_, off) =>
    (s.setNextFrameStart (s.sync.startBitnum + off + Config.fsAdvance)).moveSync .knowFrameStart

/-- The step in `KNOW_FRAME_START` (42_burst_sync R165). -/
def knowStep (s : State) : State :=
  if s.sync.nextFrameStart ≤ s.sync.startBitnum + s.bitbufLen then
    (s.bitbufDiscard (s.sync.nextFrameStart - s.sync.startBitnum)).moveSync .locked
  else s

/-- Where a slot's first match must stand for the slot to be delivered (42_burst_sync R167). -/
def expectedOffset : TrainType → Option Nat
  | .sync => some Config.offTsqSync
  | .norm1 => some Config.offTsqNorm
  | .norm2 => some Config.offTsqNorm
  | .norm3 => none
  | .ext => none

/-- `info` of `E_SYNC_LOSS` (60_exceptions R281). -/
def syncLossInfo : Option (TrainType × Nat) → BitVec 32
  | none => 0xFFFFFFFF
  | some (ty, off) => BitVec.ofNat 32 ((Config.trainTypeCode ty <<< 16) ||| off)

/-- Synchronization loss (42_burst_sync R168, 60_exceptions R282). -/
def State.loseSync (s : State) (m : Option (TrainType × Nat)) : State :=
  (s.raise .eSyncLoss (syncLossInfo m)).moveSync .unlocked

/-- The time advance of a locked slot, with the aging of fragment slots at a multiframe boundary (42_burst_sync R167,
40_tdma_time R119). -/
def State.advanceSlot (s : State) : State :=
  let s := s.withTime (s.time.addTn 1)
  if s.time.atBoundary then s.fragAgeAll else s

/-- The verdict on a slot by its first match (42_burst_sync R167, R168). -/
def slotVerdict (m : Option (TrainType × Nat)) (slot : Bits) (s : State) : State :=
  match m with
  | some (ty, off) => if expectedOffset ty = some off then burstDispatch ty slot s else s.loseSync m
  | none => s.loseSync m

/-- The step in `LOCKED` (42_burst_sync R166 to R169). -/
def lockedStep (s : State) : State :=
  if s.bitbufLen < Config.bitsPerTs then s
  else
    (slotVerdict (findTrainSeq s.slot [.sync, .norm1, .norm2]) s.slot s.advanceSlot).bitbufDiscard Config.bitsPerTs

/-- `sync_step ()` (42_burst_sync R170): exactly one step, by the state on entry. -/
def syncStep (s : State) : State :=
  match s.sync.state with
  | .unlocked => unlockedStep s
  | .knowFrameStart => knowStep s
  | .locked => lockedStep s

end Sys2Proof.Machine
end

