-- ==== Sys2Proof/Machine/Commands.lean ====
section
/-! DEFINITION. The host commands (46_host_commands) and the report of an illegal command word. -/

namespace Sys2Proof.Machine

/-- NOP (46_host_commands R271). -/
def execNop (s : State) : Host.Outcome State Fault Refusal := .next s

/-- RESET (46_host_commands R273, 70_reset_and_hazards R310): every state element, tables included; the command stream
and the event list are not state (10_state R20; log 24). -/
def execReset (s : State) : Host.Outcome State Fault Refusal :=
  .next ((State.reset.withPort s.port).withEvents s.events)

/-- PUSH_BIT (46_host_commands R272): the whole data path; at its end no working register survives (10_state R52). -/
def execPushBit (b : Bool) (s : State) : Host.Outcome State Fault Refusal :=
  .next (syncStep (s.lockDb.bitbufAppend b)).endCommand

/-- LOAD_NET (46_host_commands R274). -/
def execLoadNet (mcc mnc : BitVec 16) (ksgType securityClass : BitVec 8) (s : State) :
    Host.Outcome State Fault Refusal :=
  if s.db.locked then .next (s.raise .eDbLocked 0x10)
  else if s.nNets = Config.netCap then .next (s.raise .eResource 0x10)
  else .next (s.appendNet { mcc := mcc, mnc := mnc, ksgType := ksgType, securityClass := securityClass })

/-- LOAD_KEY (46_host_commands R275). -/
def execLoadKey (mcc mnc : BitVec 16) (addr : BitVec 32) (keyType : BitVec 8) (keyNum : BitVec 32) (key : BitVec 80)
    (s : State) : Host.Outcome State Fault Refusal :=
  if s.db.locked then .next (s.raise .eDbLocked 0x11)
  else if s.nKeys = Config.keyCap then .next (s.raise .eResource 0x11)
  else
    .next (s.appendKey
      { mcc := mcc, mnc := mnc, addr := addr, keyType := keyType, keyNum := keyNum, key := key, index := s.nKeys })

/-- An illegal command word (30_encoding R82, 46_host_commands R277): no state change, the diagnostic with the opcode. -/
def illegalCommand (w : CmdWord) (s : State) : State := s.raise .eCmdIllegal ((cmdOpcode w).setWidth 32)

end Sys2Proof.Machine
end

