-- ==== Sys2Proof/Machine/Dispatch.lean ====
section
/-! DEFINITION. `exec`: one arm per row of spec/opcode_table.json, each one call of the row's meaning. -/

namespace Sys2Proof.Machine

def exec (i : Instr) (s : State) : Host.Outcome State Fault Refusal :=
  match i with
  | .nop => Sys2Proof.Machine.execNop s
  | .reset => Sys2Proof.Machine.execReset s
  | .pushBit b => Sys2Proof.Machine.execPushBit b s
  | .loadNet mcc mnc ksgType securityClass => Sys2Proof.Machine.execLoadNet mcc mnc ksgType securityClass s
  | .loadKey mcc mnc addr keyType keyNum key => Sys2Proof.Machine.execLoadKey mcc mnc addr keyType keyNum key s
  | .tsqSync => Sys2Proof.Machine.execTsqSync s
  | .tsqNorm1 => Sys2Proof.Machine.execTsqNorm1 s
  | .tsqNorm2 => Sys2Proof.Machine.execTsqNorm2 s
  | .sb1 => Sys2Proof.Machine.execSb1 s
  | .sb2 => Sys2Proof.Machine.execSb2 s
  | .ndb => Sys2Proof.Machine.execNdb s
  | .bbk => Sys2Proof.Machine.execBbk s
  | .schHu => Sys2Proof.Machine.execSchHu s
  | .schF => Sys2Proof.Machine.execSchF s
  | .macResource => Sys2Proof.Machine.execMacResource s
  | .macFrag => Sys2Proof.Machine.execMacFrag s
  | .macEnd => Sys2Proof.Machine.execMacEnd s
  | .broadcastSysinfo => Sys2Proof.Machine.execBroadcastSysinfo s
  | .broadcastAccessDefine => Sys2Proof.Machine.execBroadcastAccessDefine s
  | .broadcastOther b => Sys2Proof.Machine.execBroadcastOther b s
  | .macSupplementary => Sys2Proof.Machine.execMacSupplementary s
  | .liOctets l => Sys2Proof.Machine.execLiOctets l s
  | .liSecondHalfStolen => Sys2Proof.Machine.execLiSecondHalfStolen s
  | .liStartOfFragmentation => Sys2Proof.Machine.execLiStartOfFragmentation s
  | .ksgTea1 => Sys2Proof.Machine.execKsgTea1 s
  | .ksgTea2 => Sys2Proof.Machine.execKsgTea2 s
  | .ksgTea3 => Sys2Proof.Machine.execKsgTea3 s
  | .ksgUnsupported k => Sys2Proof.Machine.execKsgUnsupported k s

end Sys2Proof.Machine
end

