-- ==== Sys2Proof/Machine/Fetch.lean ====
section
/-! DEFINITION. The command port (46_host_commands R270): taking the next word, what a word that selects nothing does,
and the placing of a word with its operand (log 9). -/

namespace Sys2Proof.Machine

/-- Takes the next word off the command port and starts a fresh event list (60_exceptions R296); `none` when the host
presents no command: between commands the core holds its state and does nothing (60_exceptions R307). -/
def fetch (s : State) : Option (PortWord × State) :=
  match s.port with
  | [] => none
  | p :: rest => some (p, (s.withPort rest).withEvents [])

/-- A word that selects no operation: an illegal command word reports itself (46_host_commands R277); a selector inside
the pipeline that no row lists is refused (30_encoding R107, log 7). -/
def unselected (p : PortWord) (s : State) : Host.Outcome State Fault Refusal :=
  match p with
  | .command w => .next (illegalCommand w s)
  | .training _ => .refused .noSuchEncoding
  | .subBlock _ => .refused .noSuchEncoding
  | .pdu _ => .refused .noSuchEncoding
  | .lengthInd _ => .refused .noSuchEncoding
  | .ksg _ => .refused .noSuchEncoding

/-- `v` with `x` written over it from offset `a` on. -/
def overlay (v : Bits) (a : Nat) (x : Bits) : Bits := v.take a ++ x ++ v.drop (a + x.length)

/-- `v` brought to exactly `n` bits, missing bits zero. -/
def padTo (n : Nat) (v : Bits) : Bits := v.take n ++ List.replicate (n - v.length) false

/-- M1 with the pattern of a training sequence standing at its place in the oldest slot; bits the slot does not have
yet are zero. -/
def placeTraining (pattern : Bits) (s : State) : State :=
  let off := if pattern.length = 38 then Config.offTsqSync else Config.offTsqNorm
  s.withSync
    { s.sync with
      bitbuf := overlay (padTo Config.bitsPerTs s.sync.bitbuf) off pattern ++ s.sync.bitbuf.drop Config.bitsPerTs }

/-- The PDU buffer with the type-5 bits of a sub-block, all zero. -/
def placeSubBlock (code : BitVec 3) (s : State) : State :=
  match decodeSubBlock code with
  | .instr .sb1 => s.loadPdu (List.replicate (Config.blockParams .sb1).K false)
  | .instr .sb2 => s.loadPdu (List.replicate (Config.blockParams .sb2).K false)
  | .instr .ndb => s.loadPdu (List.replicate (Config.blockParams .ndb).K false)
  | .instr .bbk => s.loadPdu (List.replicate (Config.blockParams .bbk).K false)
  | .instr .schHu => s.loadPdu (List.replicate (Config.blockParams .schHu).K false)
  | .instr .schF => s.loadPdu (List.replicate (Config.blockParams .schF).K false)
  | _ => s

/-- The PDU buffer with a block of 124 bits that starts with `v`, the rest zero, and the current PDU at its start. -/
def placePdu (v : Bits) (s : State) : State := (s.loadPdu (padTo Config.sysinfoBits v)).setL1 0

/-- The operand of a word placed where its operation reads it (log 9). -/
def placeOperand (p : PortWord) (s : State) : State :=
  match p with
  | .command _ => s
  | .training pattern => placeTraining pattern s
  | .subBlock code => placeSubBlock code s
  | .pdu v => placePdu v s
  | .lengthInd li => placePdu (List.replicate Config.resLengthInd.off false ++ bitsN 6 li.toNat) s
  | .ksg _ => s

/-- A word with its operand placed as the next one on the command port. -/
def placeWord (p : PortWord) (s : State) : State := (placeOperand p s).withPort (p :: s.port)

end Sys2Proof.Machine
end

