-- ==== Sys2Proof/Machine/Step.lean ====
section
/-! DEFINITION. One step: one word of the command port run to completion (46_host_commands R270). -/

namespace Sys2Proof.Machine

/-- One step (46_host_commands R270, 00_scope R15): the next word of the port is taken, decoded and run; with nothing
on the port the core stays as it is. -/
def step (s : State) : Host.Outcome State Fault Refusal :=
  match fetch s with
  | none => .next s
  | some (p, s') =>
    match decode p with
    | .instr i => exec i s'
    | .reject _ => unselected p s'

/-- `s` with the word `w` of `nbits` bits of the opcode table as the next word `step` takes, its operand bits zero and
placed where its operation reads them (log 8, log 9). -/
def State.withFetchWord (s : State) (nbits w : Nat) : State :=
  match tableWord nbits w with
  | none => s
  | some p => placeWord p s

end Sys2Proof.Machine
end

