-- ==== Sys2Proof/Machine/Status.lean ====
section
/-! DEFINITION. The status port (10_state R54, 46_host_commands R278): what the host can read between commands. Buffers
and key material are not part of it; reading has no effect. -/

namespace Sys2Proof.Machine

/-- The non-buffer fields of a fragment slot (10_state R47, R54). -/
structure FragStatus where
  active : Bool
  age : Nat
  numFrags : Nat
  length : Nat
  encrypted : Bool
  key : Option Nat
deriving DecidableEq, Repr

/-- The read-only status output (10_state R54): the elements of R21, R23, R24, R25, R33 to R45 and the non-buffer
fields of R47, and the security class of each network entry in load order, which 30_encoding R103 says is "stored and
shown" (DEDUCED, log 36). -/
structure Status where
  syncState : SyncState
  bitbufStartBitnum : Nat
  nextFrameStartBitnum : Nat
  time : Time
  cell : Cell
  cs : Crypto
  mac : Mac
  dbLocked : Bool
  frag1 : FragStatus
  frag2 : FragStatus
  frag3 : FragStatus
  frag4 : FragStatus
  securityClasses : List (BitVec 8)
deriving DecidableEq, Repr

/-- The visible part of a fragment slot. -/
def FragSlot.status (f : FragSlot) : FragStatus :=
  { active := f.active, age := f.age, numFrags := f.numFrags, length := f.length, encrypted := f.encrypted, key := f.key }

/-- What the status port shows (46_host_commands R278). -/
def State.status (s : State) : Status :=
  { syncState := s.sync.state, bitbufStartBitnum := s.sync.startBitnum, nextFrameStartBitnum := s.sync.nextFrameStart,
    time := s.time, cell := s.cell, cs := s.cs, mac := s.mac, dbLocked := s.db.locked,
    frag1 := s.frag.f1.status, frag2 := s.frag.f2.status, frag3 := s.frag.f3.status, frag4 := s.frag.f4.status,
    securityClasses := s.db.nets.map NetEntry.securityClass }

end Sys2Proof.Machine
end

