-- ==== Sys2Proof/Safety.lean ====
section
/-! DEFINITION. What claims about the machine are stated in: the invariants the spec's rules give (10_state R23, R34,
R48, 20_memory R60, 40_tdma_time R110, 42_burst_sync R172, 44_crypto R222), the detector's and the decoder's results as
pure functions of bits (42_burst_sync R162, 43_splitter_lower_mac R187), and the sender's side of the coding chain
(41_codecs, 00_scope R7). -/

namespace Sys2Proof

/-- The pattern of `ty` stands in `v` at offset `off`, bit for bit (42_burst_sync R162). -/
def StandsAt (ty : TrainType) (v : Bits) (off : Nat) : Prop :=
  ∃ pat, Config.tsq ty = some pat ∧ slice v off pat.length = pat

/-- The types the detector searches for (30_encoding R84). -/
def Searched (ty : TrainType) : Prop := ty = .sync ∨ ty = .norm1 ∨ ty = .norm2

/-- The first match in offset order (42_burst_sync R162): `ty` stands at `off`, and no searched type stands earlier. -/
def FirstMatch (ty : TrainType) (v : Bits) (off : Nat) : Prop :=
  Searched ty ∧ StandsAt ty v off ∧ ∀ k, k < off → ∀ ty', Searched ty' → ¬ StandsAt ty' v k

/-- The offset at which a type is expected in a slot (42_burst_sync R167). -/
def AtExpected (ty : TrainType) (off : Nat) : Prop :=
  (ty = .sync ∧ off = 214) ∨ ((ty = .norm1 ∨ ty = .norm2) ∧ off = 244)

/-- A slot is delivered when its first match stands where it is expected (42_burst_sync R167). -/
def SlotDelivered (slot : Bits) : Prop := ∃ ty off, FirstMatch ty slot off ∧ AtExpected ty off

/-- The type-2 bits of a coded sub-block received as `type5` under scrambler init `init` (43_splitter_lower_mac R187
to R190): descramble, deinterleave, soft mapping, depuncture, decode. -/
def blockType2 (sb : SubBlock) (init : BitVec 32) (type5 : Bits) : Bits :=
  viterbiCch (depuncture Config.punct23
    ((blockDeinterleave false (Config.blockParams sb).K ((Config.blockParams sb).a.getD 0)
      (scramble type5 init)).map soft)
    (Config.convN * (Config.blockParams sb).n2))

/-- The type-1 bits of a coded sub-block (43_splitter_lower_mac R191). -/
def blockType1 (sb : SubBlock) (init : BitVec 32) (type5 : Bits) : Bits :=
  slice (blockType2 sb init type5) 0 (Config.blockParams sb).n1

/-- The CRC result of a coded sub-block (43_splitter_lower_mac R191). -/
def blockOk (sb : SubBlock) (init : BitVec 32) (type5 : Bits) : Bool :=
  crcOk (slice (blockType2 sb init type5) 0 ((Config.blockParams sb).n1 + 16))

/-- What a sender makes of the `n1` payload bits `p` of a sub-block: check bits, four tail bits, the mother code,
puncturing at rate 2/3, interleaving, scrambling (41_codecs R123, R129, R132, R138, R139, R142). -/
def sendBlock (sb : SubBlock) (init : BitVec 32) (p : Bits) : Bits :=
  scramble
    (blockInterleave false (Config.blockParams sb).K ((Config.blockParams sb).a.getD 0)
      (puncture Config.punct23 (convEncode (crcAppend p ++ List.replicate Config.convTailBits false))
        (Config.blockParams sb).K))
    init

/-- A coded sub-block type: every one but `BBK` (30_encoding R89). -/
def SubBlock.coded (sb : SubBlock) : Bool := sb != .bbk

namespace Machine

/-! The spec's functions in the state's own terms. -/

/-- `generate_keystream key snap` (44_crypto R218) as a value: the 432 keystream bits for the time `t` of the snapshot,
or `none` while a crypto field is unknown, no network matches, or its generator is unsupported. -/
def State.keystream (s : State) (key : Nat) (t : Time) : Option Bits :=
  match s.cs.cn, s.cs.la, s.cs.cc, s.cs.cckId, s.cs.hn, matchedNet s.db s.cs.network, s.db.keys[key]? with
  | some cn, some la, some cc, some _, some hn, some net, some k =>
    let run := fun g => some (expandBytes (ksgBytes g (buildIv t hn 0) (Config.tb5 cn la cc k.key) 54))
    if net.ksgType = 1 then run Config.ksgTea1Byte
    else if net.ksgType = 2 then run Config.ksgTea2Byte
    else if net.ksgType = 3 then run Config.ksgTea3Byte
    else none
  | _, _, _, _, _, _, _ => none

/-- What `generate_keystream` reports (44_crypto R218): the unsupported generator, once every field is known. -/
def State.ksgReport (s : State) : List Event :=
  match s.cs.cn, s.cs.la, s.cs.cc, s.cs.cckId, s.cs.hn, matchedNet s.db s.cs.network with
  | some _, some _, some _, some _, some _, some net =>
    if net.ksgType = 1 ∨ net.ksgType = 2 ∨ net.ksgType = 3 then []
    else [.diag .eKsgUnsupported (net.ksgType.setWidth 32)]
  | _, _, _, _, _, _ => []

/-- The end of a TM-SDU from `q` to `e` behind fill-bit stripping (45_upper_mac R241). -/
def fillEnd (fill : Bool) (b : Bits) (q e : Nat) : Nat :=
  if fill = true then e - (fillCount (slice b q (e - q))).getD 0 else e

/-- The warning of fill-bit stripping (45_upper_mac R241). -/
def fillReport (fill : Bool) (b : Bits) (q e : Nat) (tn : BitVec 3) : List Event :=
  if fill = true ∧ fillCount (slice b q (e - q)) = none then [.diag .wNoFillOne (tn.setWidth 32)] else []

/-- From `s`, a MAC-RESOURCE with encryption mode `enc` whose encrypted part runs from `h` to `e` is clear in `u`
(45_upper_mac R238): it was never encrypted, or `decrypted` and decryption with the selected key gave `u`. -/
def State.Clears (s u : State) (enc : BitVec 2) (h e : Nat) (decrypted : Bool) : Prop :=
  (enc = 0 ∧ u = s ∧ decrypted = false) ∨
    (enc ≠ 0 ∧ decryptMacElement s.cs.cck h (e - h) s = (true, u) ∧ decrypted = true)

/-- The same for a fragment from `q` to `e`, whose slot says whether it is encrypted and with which key (45_upper_mac
R245). -/
def State.FragClears (s u : State) (q e : Nat) : Prop :=
  ((s.fragAt s.snapTn).encrypted = false ∧ u = s) ∨
    ((s.fragAt s.snapTn).encrypted = true ∧
      decryptMacElement (s.fragAt s.snapTn).key q (e - q) s = (true, u))

/-- The length of a MAC-RESOURCE by its length indication (45_upper_mac R237, R238): the value, the number of bits, what
the handler returns, and the state behind a warning for a PDU clipped to its block (`LI_OCTETS`) or behind the discarding
of a stale slot for an encrypted start of fragmentation (R252). `none` for a length that ends the block. -/
def State.lengthCase (s : State) : Instr → Option (BitVec 6 × Nat × Consumed × State)
  | .liOctets l =>
    let n := min (8 * l.toNat) s.pduRem
    if l = 0 ∨ 34 < l.toNat ∨ n < 16 + addrBits (readResHeader s.pduRest).addrType + 3 then none
    else if s.pduRem < 8 * l.toNat then
      some (l, n, .bits n, { s with events := s.events ++ [.diag .wPduLen (l.setWidth 32)] })
    else some (l, n, .bits n, s)
  | .liSecondHalfStolen => some (62, s.pduRem, .whole, s)
  | .liStartOfFragmentation =>
    some (63, s.pduRem, .whole, if (readResHeader s.pduRest).enc = 0 then s else s.fragDiscardStale s.snapTn)
  | _ => none

/-- A one-bit flag at `q` of a PDU that ends at `e`, and behind it an element of `w` bits when it is 1, both inside the
PDU: `q'` is the offset behind them (45_upper_mac R239). -/
def Flagged (b : Bits) (w q e q' : Nat) : Prop :=
  q < e ∧
    ((b.getD q false = false ∧ q' = q + 1) ∨ (b.getD q false = true ∧ q + 1 + w ≤ e ∧ q' = q + 1 + w))

/-- The same for the channel allocation flag and the element behind it, whose length is read from the element itself
(45_upper_mac R239, R240). -/
def ChanFlagged (b : Bits) (q e q' : Nat) : Prop :=
  q < e ∧
    ((b.getD q false = false ∧ q' = q + 1) ∨
      (b.getD q false = true ∧
        ∃ c, Config.chanAllocLen (slice b (q + 1) (e - (q + 1))) = some c ∧ q' = q + 1 + c))

/-- The bits of the channel allocation element at the start of `v`, by the widths of 30_encoding R99: extended carrier
numbering behind the flag at 22, the monitoring pattern, and for an augmented allocation everything from `n`, the napping
status, on. -/
def chanAllocBits (v : Bits) : Nat :=
  let two := fun a => uint (slice v a 2)
  let monitoring := if v.getD 22 false = true then 33 else 23
  let plain := if two monitoring = 0 then monitoring + 4 else monitoring + 2
  if two 6 ≠ 0 then plain
  else
    let n := plain + 26
    let a := if two n = 1 then n + 17 else n + 6
    let b := if v.getD a false = true then a + 17 else a + 1
    if v.getD b false = true then b + 18 else b + 2

/-- The aging of one slot (45_upper_mac R257). -/
def FragSlot.aged (f : FragSlot) : FragSlot :=
  if f.active = true then (if 6 ≤ f.age + 1 then FragSlot.reset else { f with age := f.age + 1 }) else f

/-- What the aging of slot `tn` reports (45_upper_mac R257). -/
def FragSlot.ageReport (f : FragSlot) (tn : BitVec 32) : List Event :=
  if f.active = true ∧ 6 ≤ f.age + 1 then [.diag .wFragAged tn] else []

/-! Invariants. -/

/-- The synchronizer's invariant after every command (42_burst_sync R172): at most 37 bits while `UNLOCKED`; from 38 to
295 bits and the predicted boundary 296 bits behind the first of them in `KNOW_FRAME_START`; at most 509 bits while
`LOCKED`. -/
def SyncRegs.Ok (r : SyncRegs) : Prop :=
  match r.state with
  | .unlocked => r.bitbuf.length ≤ 37
  | .knowFrameStart =>
    38 ≤ r.bitbuf.length ∧ r.bitbuf.length ≤ 295 ∧ r.nextFrameStart = r.startBitnum + 296
  | .locked => r.bitbuf.length ≤ 509

/-- The invariant of one fragment slot after every command (10_state R48). -/
def FragSlot.Ok (f : FragSlot) : Prop :=
  (f.active = false → f = FragSlot.reset) ∧
    (f.active = true →
      1 ≤ f.numFrags ∧ f.length = f.buf.length ∧ f.age < Config.n203 ∧ (f.encrypted = true → f.key.isSome = true))

/-- The invariant of the file of fragment slots (10_state R48). -/
def FragFile.Ok (f : FragFile) : Prop := f.f1.Ok ∧ f.f2.Ok ∧ f.f3.Ok ∧ f.f4.Ok

/-- The scrambler init of a valid cell is the function of its identity (10_state R34, 43_splitter_lower_mac R195). -/
def Cell.Ok (c : Cell) : Prop :=
  c.valid = true → c.scrambInit = Sys2Proof.scrambInit c.mcc.toNat c.mnc.toNat c.cc.toNat

/-- The cached table indices equal what the lookups return at this moment (44_crypto R222). -/
def State.CacheOk (s : State) : Prop :=
  s.cs.network = lookupNetwork s.db s.cs.mcc s.cs.mnc ∧ s.cs.cck = getKsgKey s.db s.cs.network s.cs.cckId

/-- Only host commands stand on the command port (46_host_commands R270). -/
def State.HostOnly (s : State) : Prop := s.port.all PortWord.isCommand = true

/-- Under a command stream, cached indices are right, and no crypto field is known while the tables can still be loaded
(44_crypto R222, 20_memory R75). -/
def State.LookupInv (s : State) : Prop :=
  s.HostOnly ∧ s.CacheOk ∧ (s.db.locked = false → s.cs = Crypto.reset)

/-- Every memory is in canonical form and the synchronizer's invariant, which bounds M1, holds (20_memory R60). -/
def State.MemoryInv (s : State) : Prop := Memory.wf s ∧ s.sync.Ok

/-- `t` is `s` with further events at the end of the list (00_scope R13, R14). -/
def State.EventsGrow (s t : State) : Prop := ∃ ev, t.events = s.events ++ ev

/-- `t` is `s` but for the working registers, which are dead between commands (10_state R52). -/
def State.SameButWork (s t : State) : Prop := t.withWork s.work = s

end Machine

end Sys2Proof
end

