-- ==== Sys2Proof/Certificates/Slice0/Obligations.lean ====
section
/-! DEFINITION. The statements for the provers. A working register is dead between commands (10_state R52), so a
statement of an operation's result leaves the working registers the rule does not speak of to a `w` that exists. -/

open Sys2Proof Sys2Proof.Machine

/-! Encodings. -/

/-- Words written out from 30_encoding select the operations of their rows. -/
def Obligations.SpecWordsDecode : Prop :=
  decode (.command 0x000000000000000000000000000000000000000000000000) = .instr .nop ∧
  decode (.command 0x010000000000000000000000000000000000000000000000) = .instr .reset ∧
  decode (.command 0x020000000000000000000000000000000000000000000001) = .instr (.pushBit true) ∧
  decode (.command 0x100106000102020000000000000000000000000000000000) = .instr (.loadNet 262 1 2 2) ∧
  decode (.command 0x1101060001FFFFFFFF04FFFFFFFF0123456789ABCDEF0123) =
    .instr (.loadKey 262 1 4294967295 4 4294967295 0x0123456789ABCDEF0123) ∧
  decode (.subBlock 3) = .instr .bbk ∧
  decode (.pdu [false, true, true, false]) = .instr .macEnd ∧
  decode (.lengthInd 62) = .instr .liSecondHalfStolen ∧
  decode (.ksg 4) = .instr (.ksgUnsupported 4)

/-- Decoding the encoding of a well-formed instruction gives it back, with every operand at every value: all five
spaces of 30_encoding. -/
def Obligations.DecodeEncodeAgree : Prop :=
  ∀ i : Instr, i.wellFormed = true → decode (encode i) = .instr i

/-- A command word the decoder accepts is exactly the encoding of what it decodes to: no bit of a legal command word is
ignored (30_encoding R80 to R82). -/
def Obligations.CommandWordHasOneMeaning : Prop :=
  ∀ (w : CmdWord) (i : Instr), decode (.command w) = .instr i → encode i = .command w ∧ i.wellFormed = true

/-- Which command words are legal, and that an illegal one changes no state and emits `DIAG(E_CMD_ILLEGAL, opcode)`
(30_encoding R82). That the step takes the word off a port held in the state and that the event list starts empty are the
model's choices (log 2, log 3). -/
def Obligations.IllegalCommandReported : Prop :=
  ∀ w : CmdWord,
    let legal :=
      (w.extractLsb' 184 8 = 0x00 ∧ w.extractLsb' 0 184 = 0) ∨ (w.extractLsb' 184 8 = 0x01 ∧ w.extractLsb' 0 184 = 0) ∨
      (w.extractLsb' 184 8 = 0x02 ∧ w.extractLsb' 1 183 = 0) ∨ (w.extractLsb' 184 8 = 0x10 ∧ w.extractLsb' 0 136 = 0) ∨
      w.extractLsb' 184 8 = 0x11
    (legal → ∃ i, decode (.command w) = .instr i) ∧
    (¬ legal → ∀ (s : State) (rest : List PortWord), s.port = .command w :: rest →
      step s = .next { s with
        port := rest, events := [.diag .eCmdIllegal ((w.extractLsb' 184 8).setWidth 32)] })

/-- When the next word on the port decodes to `i`, a step is `exec i` on the state with the word taken off and an empty
event list; with no word on the port the core stays as it is (log 2, log 3). -/
def Obligations.StepRunsDecodedWord : Prop :=
  (∀ (s : State) (p : PortWord) (rest : List PortWord) (i : Instr), s.port = p :: rest → decode p = .instr i →
    step s = exec i { s with port := rest, events := [] }) ∧
  (∀ s : State, s.port = [] → step s = .next s)

/-- No command word stops the core: every one, legal or not, gives a next state, with exactly that word taken off the
port. -/
def Obligations.NoCommandStopsTheCore : Prop :=
  ∀ (s : State) (w : CmdWord) (rest : List PortWord), s.port = .command w :: rest →
    ∃ t, step s = .next t ∧ t.port = rest

/-- Each encoding inside the pipeline selects its operation: a MAC PDU by its prefix, which is always one of the seven
(45_upper_mac R232); a MAC-RESOURCE by its length indication (R237); a burst by its training sequence
(43_splitter_lower_mac R180); a generator by its code (44_crypto R216). -/
def Obligations.PipelineSelectsByEncoding : Prop :=
  (∀ s : State, s.hasPdu = true →
    ∃ i, decode (.pdu s.pduRest) = .instr i ∧ exec i s = .next (umacPdu s)) ∧
  (∀ (s : State) (li : BitVec 6), s.hasResHeader = true →
    ∃ i, decode (.lengthInd li) = .instr i ∧ exec i s = .next (lengthDispatch li s)) ∧
  (∀ (s : State) (ty : TrainType) (pat : Bits), s.hasSlot = true → Searched ty → Config.tsq ty = some pat →
    ∃ i, decode (.training pat) = .instr i ∧ exec i s = .next (burstDispatch ty s.slot s)) ∧
  (∀ (s : State) (c : BitVec 8), ∃ i, decode (.ksg c) = .instr i ∧ exec i s = .next (ksgDispatch c s))

/-! Reset and host commands. -/

/-- The reset value of every state element of the table of 10_state R53, the fragment slots of timeslots 1 to 4 among
them. -/
def Obligations.ResetStateValues : Prop :=
  State.reset.sync.state = .unlocked ∧ State.reset.sync.bitbuf.length = 0 ∧ State.reset.sync.startBitnum = 0 ∧
  State.reset.sync.nextFrameStart = 0 ∧
  State.reset.time = { hn := 0, mn := 1, fn := 1, tn := 1, sn := 1 } ∧
  State.reset.cell = { mcc := 0, mnc := 0, cc := 0, scrambInit := 0, valid := false } ∧
  State.reset.cs =
    { mcc := none, mnc := none, cc := none, cckId := none, hn := none, la := none, cn := none, network := none,
      cck := none } ∧
  State.reset.mac =
    { isTraffic := 0, lastCrcFail := false, blk1Stolen := false, blk2Stolen := false, sysinfo := none,
      addr := none } ∧
  (∀ tn : BitVec 3, tn = 1 ∨ tn = 2 ∨ tn = 3 ∨ tn = 4 → State.reset.fragAt tn =
    { active := false, age := 0, numFrags := 0, length := 0, encrypted := false, key := none, buf := [] }) ∧
  State.reset.db = { locked := false, nets := [], keys := [] }

/-- `NOP` changes nothing and emits nothing (46_host_commands R271); `RESET` gives every state element its reset value,
tables included, and emits no event (R273). -/
def Obligations.NopAndResetCommands : Prop :=
  ∀ s : State, exec .nop s = .next s ∧ ∃ t, exec .reset s = .next t ∧ t.sync = State.reset.sync ∧ t.time = State.reset.time ∧
    t.cell = State.reset.cell ∧ t.cs = State.reset.cs ∧ t.mac = State.reset.mac ∧
    t.frag = State.reset.frag ∧ t.db = State.reset.db ∧ t.db.locked = false ∧ t.events = s.events

/-- `LOAD_NET` appends a network entry, as given and unchecked, `LOAD_KEY` a key entry whose index is its position; each
is refused while the tables are locked and when its table is full, and changes nothing else (46_host_commands R274,
R275). -/
def Obligations.LoadsAppendEntries : Prop :=
  (∀ (s : State) (mcc mnc : BitVec 16) (kt sc : BitVec 8),
    (s.db.locked = true →
      exec (.loadNet mcc mnc kt sc) s = .next { s with events := s.events ++ [.diag .eDbLocked 0x10] }) ∧
    (s.db.locked = false → s.db.nets.length = Config.netCap →
      exec (.loadNet mcc mnc kt sc) s = .next { s with events := s.events ++ [.diag .eResource 0x10] }) ∧
    (s.db.locked = false → s.db.nets.length ≠ Config.netCap →
      exec (.loadNet mcc mnc kt sc) s = .next { s with
        db := { s.db with
          nets := s.db.nets ++ [{ mcc := mcc, mnc := mnc, ksgType := kt, securityClass := sc }] } })) ∧
  (∀ (s : State) (mcc mnc : BitVec 16) (ad : BitVec 32) (kt : BitVec 8) (kn : BitVec 32) (k : BitVec 80),
    (s.db.locked = true →
      exec (.loadKey mcc mnc ad kt kn k) s = .next { s with events := s.events ++ [.diag .eDbLocked 0x11] }) ∧
    (s.db.locked = false → s.db.keys.length = Config.keyCap →
      exec (.loadKey mcc mnc ad kt kn k) s = .next { s with events := s.events ++ [.diag .eResource 0x11] }) ∧
    (s.db.locked = false → s.db.keys.length ≠ Config.keyCap →
      exec (.loadKey mcc mnc ad kt kn k) s = .next { s with
        db := { s.db with
          keys := s.db.keys ++
            [{ mcc := mcc, mnc := mnc, addr := ad, keyType := kt, keyNum := kn, key := k,
               index := s.db.keys.length }] } }))

/-- The table lock (46_host_commands R276): a `PUSH_BIT` sets it and nothing else of the database; only `RESET` clears
it; while it is set no other instruction changes the tables. -/
def Obligations.LockedTablesReadOnly : Prop :=
  ∀ s t : State,
    (∀ b, exec (.pushBit b) s = .next t → t.db = { s.db with locked := true }) ∧
    (∀ i, exec i s = .next t → i ≠ .reset → (∀ b, i ≠ .pushBit b) → t.db.locked = s.db.locked) ∧
    (∀ i, exec i s = .next t → i ≠ .reset → s.db.locked = true → t.db = s.db) ∧
    (exec .reset s = .next t → t.db.locked = false)

/-! The synchronizer. -/

/-- Every `PUSH_BIT` gives a next state, in which the stream position is one further (10_state R23, and R30, which the
spec derives from it), the tables are locked, and the command port is as it was. -/
def Obligations.PushBitAdvancesPosition : Prop :=
  ∀ (s : State) (b : Bool), ∃ t, exec (.pushBit b) s = .next t ∧
    t.sync.startBitnum + t.sync.bitbuf.length = s.sync.startBitnum + s.sync.bitbuf.length + 1 ∧
    t.db = { s.db with locked := true } ∧ t.port = s.port

/-- `PUSH_BIT` in `UNLOCKED` (42_burst_sync R163, R164): with no SYNC pattern in the buffer the last 37 bits are kept;
with one at its first offset `off` the boundary is predicted 296 bits behind it, a number the spec derives. Nothing else
changes but the lock. -/
def Obligations.PushBitWhileUnlocked : Prop :=
  ∀ (s : State) (b : Bool), s.sync.state = .unlocked →
    let v := s.sync.bitbuf ++ [b]
    ((∀ off, ¬ StandsAt .sync v off) → ∃ w : Work,
      exec (.pushBit b) s = .next (({ s with
        sync := if 37 < v.length then
            { s.sync with bitbuf := v.drop (v.length - 37), startBitnum := s.sync.startBitnum + (v.length - 37) }
          else { s.sync with bitbuf := v }
        db := { s.db with locked := true } } : State).withWork w)) ∧
    (∀ off, StandsAt .sync v off → (∀ k, k < off → ¬ StandsAt .sync v k) → ∃ w : Work,
      exec (.pushBit b) s = .next (({ s with
        sync :=
          { state := .knowFrameStart, bitbuf := v, startBitnum := s.sync.startBitnum,
            nextFrameStart := s.sync.startBitnum + off + 296 }
        db := { s.db with locked := true }
        events := s.events ++ [.syncInd .unlocked .knowFrameStart] } : State).withWork w))

/-- `PUSH_BIT` in `KNOW_FRAME_START` (42_burst_sync R165): before the predicted boundary the bit is only kept; at it
the buffer is trimmed to the boundary, which under the synchronizer's invariant empties it, and the synchronizer is
`LOCKED`. In `LOCKED` before the slot is whole (R166) the bit is only kept. -/
def Obligations.PushBitUpToSlotEnd : Prop :=
  ∀ (s : State) (b : Bool),
    let v := s.sync.bitbuf ++ [b]
    let d := s.sync.nextFrameStart - s.sync.startBitnum
    let kept : State := { s with sync := { s.sync with bitbuf := v }, db := { s.db with locked := true } }
    (s.sync.state = .knowFrameStart → s.sync.startBitnum + v.length < s.sync.nextFrameStart → ∃ w : Work,
      exec (.pushBit b) s = .next (kept.withWork w)) ∧
    (s.sync.state = .knowFrameStart → s.sync.nextFrameStart ≤ s.sync.startBitnum + v.length → ∃ w : Work,
      exec (.pushBit b) s = .next (({ s with
        sync := { s.sync with state := .locked, bitbuf := v.drop d, startBitnum := s.sync.startBitnum + d }
        db := { s.db with locked := true }
        events := s.events ++ [.syncInd .knowFrameStart .locked] } : State).withWork w)) ∧
    (s.sync.state = .knowFrameStart → s.sync.Ok → s.sync.nextFrameStart ≤ s.sync.startBitnum + v.length →
      v.drop d = [] ∧ s.sync.startBitnum + d = s.sync.nextFrameStart) ∧
    (s.sync.state = .locked → v.length < 510 → ∃ w : Work, exec (.pushBit b) s = .next (kept.withWork w))

/-- The completion of a slot that is not delivered (42_burst_sync R168, R169): time has advanced and slots have aged,
`DIAG(E_SYNC_LOSS, info)` and `SYNC_IND(LOCKED, UNLOCKED)` are emitted, the slot is consumed, and nothing else
changes. `info` is all ones without a match, else the type code and the offset. -/
def Obligations.SlotLossDropsSlot : Prop :=
  ∀ (s : State) (b : Bool), s.sync.state = .locked → 510 ≤ s.sync.bitbuf.length + 1 →
    let v := s.sync.bitbuf ++ [b]
    let code := fun (ty : TrainType) => if ty = .sync then 3 else if ty = .norm1 then 0 else 1
    let time := s.time.addTn 1
    let a := if time.fn = 18 ∧ time.tn = 1 then (s.withTime time).fragAgeAll else s.withTime time
    let lost := fun (info : BitVec 32) (w : Work) =>
      ({ a with
        sync := { s.sync with state := .unlocked, bitbuf := v.drop 510, startBitnum := s.sync.startBitnum + 510 }
        db := { s.db with locked := true }
        events := a.events ++ [.diag .eSyncLoss info, .syncInd .locked .unlocked] } : State).withWork w
    ((∀ ty off, ¬ FirstMatch ty (v.take 510) off) → ∃ w : Work, exec (.pushBit b) s = .next (lost 0xFFFFFFFF w)) ∧
    (∀ ty off, FirstMatch ty (v.take 510) off → ¬ AtExpected ty off → ∃ w : Work,
      exec (.pushBit b) s = .next (lost (BitVec.ofNat 32 (code ty * 65536 + off)) w))

/-- The completion of a slot whose first match stands where it is expected (42_burst_sync R167, R169): after the time
advance and the aging the operation of the training sequence runs on the slot, then the slot is consumed. That the
operation is an instruction of its own is the model's (log 1). -/
def Obligations.SlotDeliveredRunsBurst : Prop :=
  ∀ (s : State) (b : Bool) (ty : TrainType) (off : Nat), s.sync.state = .locked →
    510 ≤ s.sync.bitbuf.length + 1 → FirstMatch ty ((s.sync.bitbuf ++ [b]).take 510) off → AtExpected ty off →
    let v := s.sync.bitbuf ++ [b]
    let time := s.time.addTn 1
    let a := if time.fn = 18 ∧ time.tn = 1 then (s.withTime time).fragAgeAll else s.withTime time
    let i := match ty with
      | .sync => Instr.tsqSync
      | .norm1 => Instr.tsqNorm1
      | _ => Instr.tsqNorm2
    ∃ (u : State) (w : Work), exec i { a with sync := { s.sync with bitbuf := v }, db := { s.db with locked := true } } = .next u ∧
      exec (.pushBit b) s = .next (({ u with
        sync := { s.sync with bitbuf := v.drop 510, startBitnum := s.sync.startBitnum + 510 } } : State).withWork w)

/-- `find_train_seq` returns the first match in offset order among the types of its mask, and `none` exactly when there
is none (42_burst_sync R162). -/
def Obligations.DetectorFindsFirstMatch : Prop :=
  ∀ (v : Bits) (mask : List TrainType),
    (∀ ty off, findTrainSeq v mask = some (ty, off) ↔
      Searched ty ∧ ty ∈ mask ∧ StandsAt ty v off ∧
        ∀ k, k < off → ∀ ty', Searched ty' → ty' ∈ mask → ¬ StandsAt ty' v k) ∧
    (findTrainSeq v mask = none ↔ ∀ ty off, Searched ty → ty ∈ mask → ¬ StandsAt ty v off)

/-- The transition table of `sync_state` (42_burst_sync R174): the seven rows for a pushed bit, `RESET` forces
`UNLOCKED`, and no other instruction writes the register. -/
def Obligations.SyncStateTransitions : Prop :=
  ∀ (i : Instr) (s t : State), exec i s = .next t →
    (i = .reset → t.sync.state = .unlocked) ∧
    (i ≠ .reset → (∀ b, i ≠ .pushBit b) → t.sync.state = s.sync.state) ∧
    (∀ b, i = .pushBit b →
      let v := s.sync.bitbuf ++ [b]
      (s.sync.state = .unlocked → (∃ off, StandsAt .sync v off) → t.sync.state = .knowFrameStart) ∧
      (s.sync.state = .unlocked → (¬ ∃ off, StandsAt .sync v off) → t.sync.state = .unlocked) ∧
      (s.sync.state = .knowFrameStart → s.sync.nextFrameStart ≤ s.sync.startBitnum + v.length →
        t.sync.state = .locked) ∧
      (s.sync.state = .knowFrameStart → ¬ s.sync.nextFrameStart ≤ s.sync.startBitnum + v.length →
        t.sync.state = .knowFrameStart) ∧
      (s.sync.state = .locked → v.length < 510 → t.sync.state = .locked) ∧
      (s.sync.state = .locked → 510 ≤ v.length → SlotDelivered (v.take 510) → t.sync.state = .locked) ∧
      (s.sync.state = .locked → 510 ≤ v.length → ¬ SlotDelivered (v.take 510) → t.sync.state = .unlocked))

/-! Invariants that every step keeps. -/

/-- Every step keeps the bounds of the bit buffer and of the predicted boundary (42_burst_sync R172, which the
spec derives from its other rules). -/
def Obligations.SynchronizerInvariantKept : Prop :=
  ∀ s t : State, s.sync.Ok → step s = .next t → t.sync.Ok

/-- Every step keeps every field of `time` in its range (40_tdma_time R110). -/
def Obligations.TimeStaysInRange : Prop :=
  ∀ s t : State, s.time.inRange → step s = .next t → t.time.inRange

/-- Every step keeps the invariants of the four fragment slots (10_state R48, which the spec derives from its other
rules). -/
def Obligations.FragmentSlotInvariantKept : Prop :=
  ∀ s t : State, s.frag.Ok → step s = .next t → t.frag.Ok

/-- Every step keeps the canonical form of the memories (20_memory R60; log 34), together with the bounds of the bit
buffer. -/
def Obligations.MemoryFormKept : Prop :=
  ∀ s t : State, s.MemoryInv → step s = .next t → t.MemoryInv

/-- Under a stream of host commands the cached table indices always equal what the lookups return at that moment
(44_crypto R222, which the spec derives from its other rules), because the tables are locked before any crypto field is
known (20_memory R75). -/
def Obligations.CachedLookupsStayFresh : Prop :=
  ∀ s t : State, s.LookupInv → step s = .next t → t.LookupInv

/-- The reset state, with no command presented, meets every invariant. -/
def Obligations.ResetMeetsInvariants : Prop :=
  State.reset.sync.Ok ∧ State.reset.time.inRange ∧ State.reset.frag.Ok ∧ State.reset.MemoryInv ∧
    State.reset.LookupInv ∧ State.reset.cell.Ok

/-- `cell.valid` is never cleared but by `RESET` (10_state R35), and the scrambler init of a valid cell stays the
function of its identity (10_state R34). -/
def Obligations.CellIdentityKept : Prop :=
  ∀ (i : Instr) (s t : State), exec i s = .next t → s.cell.Ok →
    t.cell.Ok ∧ (i ≠ .reset → s.cell.valid = true → t.cell.valid = true)

/-- No instruction takes an event back: each only adds to the end of the event list (00_scope R13, R14). -/
def Obligations.EventsOnlyGrow : Prop :=
  ∀ (i : Instr) (s t : State), exec i s = .next t → s.EventsGrow t

/-- The PDU loop (45_upper_mac R230, R231): `umac_block` loads the PDU buffer and runs the loop from offset 0. With
fewer than 16 bits left from `pos` the loop stops; else `l1` is `pos`, the operation that the prefix selects runs, the
loop stops behind `WHOLE`, and goes on `c` bits further behind a handler that took `c`, which is at least 16. No handler
changes the length of the block, so these equations determine the loop. -/
def Obligations.HandlersTakeSixteenBits : Prop :=
  (∀ (s : State) (n : Nat), s.hasPdu = true → (umacPdu s).work.consumed = .bits n → 16 ≤ n) ∧
  ∃ loop : Nat → State → State,
    (∀ (pos : Nat) (s : State), s.work.pdu.bits.length < pos + 16 → loop pos s = s) ∧
    (∀ (pos : Nat) (s : State), pos + 16 ≤ s.work.pdu.bits.length → ∃ i t,
      decode (.pdu (s.work.pdu.bits.drop pos)) = .instr i ∧
      exec i { s with work := { s.work with pdu := { s.work.pdu with l1 := some pos } } } = .next t ∧
      t.work.pdu.bits.length = s.work.pdu.bits.length ∧
      (t.work.consumed = .whole → loop pos s = t) ∧
      (∀ c, t.work.consumed = .bits c → 16 ≤ c ∧ loop pos s = loop (pos + c) t)) ∧
    (∀ (type1 : Bits) (ok : Bool) (s : State), umacBlock type1 ok s = loop 0 { s with
      work := { s.work with
        pdu := { bits := type1, l1 := some 0, l2 := none, l3 := none, l4 := none }, crcOk := ok } })

/-! Time. -/

/-- The four equalities of 40_tdma_time R118, and that 60 multiframes are the identity; the spec derives R118 from
R111. -/
def Obligations.TimeCarryLaws : Prop :=
  ∀ t : Time, t.inRange →
    t.addTn 4 = t.addFn 1 ∧ t.addFn 18 = t.addMn 1 ∧ t.addSn 255 = t.addTn 1 ∧
    (∀ n, t.sn.toNat + n ≤ 255 → t.addSn n = { t with sn := BitVec.ofNat 8 (t.sn.toNat + n) }) ∧
    t.addMn 60 = t

/-- `time_add_tn n` for any `n` is the normalization of 40_tdma_time R111, carries rippling from symbol to multiframe
and dropped there, with no register cutting a value off (R112). -/
def Obligations.TimeslotAdvanceNormalizes : Prop :=
  ∀ (t : Time) (n : Nat), t.inRange →
    let tn := t.tn.toNat + n
    let fn := t.fn.toNat + (tn - 1) / 4
    let mn := t.mn.toNat + (fn - 1) / 18
    (t.addTn n).sn = t.sn ∧ (t.addTn n).tn.toNat = (tn - 1) % 4 + 1 ∧ (t.addTn n).fn.toNat = (fn - 1) % 18 + 1 ∧
      (t.addTn n).mn.toNat = (mn - 1) % 60 + 1 ∧ (t.addTn n).hn = t.hn

/-- The aging step (45_upper_mac R257): every active slot is one older, those that reach 6 are reset and reported, in
timeslot order, and nothing else changes. -/
def Obligations.AgingStepOfAllSlots : Prop :=
  ∀ s : State, s.fragAgeAll = { s with
    frag := { f1 := s.frag.f1.aged, f2 := s.frag.f2.aged, f3 := s.frag.f3.aged, f4 := s.frag.f4.aged }
    events := s.events ++ s.frag.f1.ageReport 1 ++ s.frag.f2.ageReport 2 ++ s.frag.f3.ageReport 3 ++
      s.frag.f4.ageReport 4 }

/-- A slot opened and never continued becomes inactive at exactly the sixth multiframe boundary (45_upper_mac R258). -/
def Obligations.UnfedSlotDiesAtSixthBoundary : Prop :=
  ∀ (s : State) (tn : BitVec 3), tn = 1 ∨ tn = 2 ∨ tn = 3 ∨ tn = 4 → (s.fragAt tn).active = true →
    (s.fragAt tn).age = 0 →
    (∀ k, k < 6 → ((Nat.repeat State.fragAgeAll k s).fragAt tn).active = true ∧
      ((Nat.repeat State.fragAgeAll k s).fragAt tn).age = k) ∧
    (Nat.repeat State.fragAgeAll 6 s).fragAt tn = FragSlot.reset

/-! Codecs. -/

/-- One step of the CRC (41_codecs R120), the fold over a bit vector (R121), the acceptance test (R122), and that a
payload with its appended check bits is accepted, for every payload (R123). -/
def Obligations.CrcAcceptsAppended : Prop :=
  (∀ (c : BitVec 16) (b : Bool),
    crc16Step c b = if (c.getLsbD 15 ^^ b) = true then (c <<< 1) ^^^ 0x1021 else c <<< 1) ∧
  (∀ c : BitVec 16, crc16 c [] = c) ∧
  (∀ (c : BitVec 16) (b : Bool), crc16 c [b] = crc16Step c b) ∧
  (∀ (c : BitVec 16) (u w : Bits), crc16 (crc16 c u) w = crc16 c (u ++ w)) ∧
  (∀ v : Bits, crcOk v = true ↔ crc16 0xFFFF v = 0x1D0F) ∧
  ∀ p : Bits, crcAppend p = p ++ bitsN 16 (~~~ (crc16 0xFFFF p)).toNat ∧ crcOk (crcAppend p) = true

/-- The scrambler: one step of its register with the fourteen taps (41_codecs R127); the sequence is the new bits of the
steps from the init value, all zeros from 0 (R128); scrambling is the XOR with the sequence, bit by bit, an involution,
and on soft symbols the negation where the sequence bit is 1 (R129); `scramb_init` packs the masked identity and the
constant 3 (R130). -/
def Obligations.ScramblerIsInvolution : Prop :=
  (∀ l : BitVec 32,
    let nb := l.getLsbD 0 ^^ l.getLsbD 6 ^^ l.getLsbD 9 ^^ l.getLsbD 10 ^^ l.getLsbD 16 ^^ l.getLsbD 20 ^^
      l.getLsbD 21 ^^ l.getLsbD 22 ^^ l.getLsbD 24 ^^ l.getLsbD 25 ^^ l.getLsbD 27 ^^ l.getLsbD 28 ^^
      l.getLsbD 30 ^^ l.getLsbD 31
    lfsrNext l = ((l >>> 1) ||| (if nb = true then 0x80000000 else 0), nb)) ∧
  (∀ (init : BitVec 32) (n : Nat),
    scrambleSeq init 0 = [] ∧
    scrambleSeq init (n + 1) = (lfsrNext init).2 :: scrambleSeq (lfsrNext init).1 n ∧
    scrambleSeq 0 n = List.replicate n false) ∧
  (∀ (x : List Soft) (init : BitVec 32),
    (scrambleSoft x init).length = x.length ∧
    ∀ k, k < x.length → (scrambleSoft x init).getD k 0 =
      if (scrambleSeq init x.length).getD k false = true then -(x.getD k 0) else x.getD k 0) ∧
  (∀ (x : Bits) (init : BitVec 32), scrambleSoft (x.map soft) init = (scramble x init).map soft) ∧
  (∀ mcc mnc cc : Nat,
    scrambInit mcc mnc cc = BitVec.ofNat 10 mcc ++ (BitVec.ofNat 14 mnc ++ (BitVec.ofNat 6 cc ++ (3 : BitVec 2)))) ∧
  ∀ (x : Bits) (init : BitVec 32),
    (scramble x init).length = x.length ∧
    (∀ k, k < x.length →
      (scramble x init).getD k false = (x.getD k false ^^ (scrambleSeq init x.length).getD k false)) ∧
    scramble (scramble x init) init = x

/-- The block interleaver sends element `i` of `K` to place `1 + ((a × i) mod K)` (41_codecs R132), the deinterleaver
reads it back from there (R133), and so undoes the interleaver, for every coprime pair, the four pairs of the block
parameters among them (R134, which the spec derives from R132). The elements can be of any type. -/
def Obligations.InterleaverRoundTrip : Prop :=
  (∀ (α : Type) (hole : α) (K a : Nat) (x : List α), Nat.gcd a K = 1 → x.length = K →
    (blockInterleave hole K a x).length = K ∧
    (∀ i, 1 ≤ i → i ≤ K →
      let k := 1 + (a * i) % K
      (blockInterleave hole K a x).getD (k - 1) hole = x.getD (i - 1) hole) ∧
    blockDeinterleave hole K a (blockInterleave hole K a x) = x) ∧
  (∀ (α : Type) (hole : α) (K a : Nat) (y : List α), y.length = K →
    (blockDeinterleave hole K a y).length = K ∧
    ∀ i, 1 ≤ i → i ≤ K →
      let k := 1 + (a * i) % K
      (blockDeinterleave hole K a y).getD (i - 1) hole = y.getD (k - 1) hole) ∧
  Nat.gcd 11 120 = 1 ∧ Nat.gcd 101 216 = 1 ∧ Nat.gcd 13 168 = 1 ∧ Nat.gcd 103 432 = 1

/-- Depuncturing a punctured mother code gives every transmitted position back and leaves the others erased; no position
is written twice (41_codecs R145, which the spec derives from R142 and R144). -/
def Obligations.DepunctureInvertsPuncture : Prop :=
  ∀ p : Puncturer, p = Config.punct23 ∨ p = Config.punct13 →
    (∀ i j, 1 ≤ i → i < j → punctIndex p i < punctIndex p j) ∧
    (∀ (m : Bits) (n : Nat), punctIndex p n ≤ m.length → ∀ k, k < m.length →
      ((∃ j, 1 ≤ j ∧ j ≤ n ∧ punctIndex p j = k + 1) →
        (depuncture p ((puncture p m n).map soft) m.length).getD k 0 = soft (m.getD k false)) ∧
      ((¬ ∃ j, 1 ≤ j ∧ j ≤ n ∧ punctIndex p j = k + 1) →
        (depuncture p ((puncture p m n).map soft) m.length).getD k 0 = 0))

/-- The control-channel decoder is the Viterbi decoder with N = 4, K = 5 and flush termination, and it recovers every bit
vector that ends in four zeros from its noise-free encoding, also behind puncturing and depuncturing at rate 2/3
(41_codecs R153). -/
def Obligations.ViterbiRecoversNoiseFree : Prop :=
  (∀ r, viterbiCch r = viterbi { N := 4, K := 5, gen := [0x19, 0x17, 0x1D, 0x1B], term := .flush } r) ∧
  ∀ u : Bits,
    let v := u ++ [false, false, false, false]
    viterbiCch ((convEncode v).map soft) = v ∧
    ∀ n, punctIndex Config.punct23 n ≤ 4 * v.length → 4 * v.length < punctIndex Config.punct23 (n + 1) →
      viterbiCch (depuncture Config.punct23 ((puncture Config.punct23 (convEncode v) n).map soft) (4 * v.length)) = v

/-- The receiver undoes the sender: for every coded sub-block type, scrambler init and payload, a block received without
an error passes its CRC and gives the payload back. -/
def Obligations.NoiseFreeBlockRecovered : Prop :=
  ∀ (sb : SubBlock) (init : BitVec 32) (p : Bits), sb.coded = true → p.length = (Config.blockParams sb).n1 →
    (sendBlock sb init p).length = (Config.blockParams sb).K ∧
    blockType1 sb init (sendBlock sb init p) = p ∧ blockOk sb init (sendBlock sb init p) = true

/-- `fill_count` is the least distance from the end at which a 1 stands, and `none` without a 1 (45_upper_mac R260). -/
def Obligations.FillCountFindsLastOne : Prop :=
  ∀ v : Bits,
    (∀ r, fillCount v = some r ↔
      1 ≤ r ∧ r ≤ v.length ∧ v.getD (v.length - r) false = true ∧
        ∀ k, 1 ≤ k → k < r → v.getD (v.length - k) false = false) ∧
    (fillCount v = none ↔ ∀ b ∈ v, b = false)

/-! Bursts and the lower MAC. -/

/-- The three splits of a delivered slot (43_splitter_lower_mac R180 to R183): the stolen flags are cleared, `BURST_IND`
is emitted, then the sub-blocks run one after another, each on what the one before left. -/
def Obligations.BurstsSplitIntoSubBlocks : Prop :=
  ∀ s : State, 510 ≤ s.sync.bitbuf.length →
    let slot := s.sync.bitbuf.take 510
    let open_ := fun (ty : TrainType) => { s with
      mac := { s.mac with blk1Stolen := false, blk2Stolen := false }, events := s.events ++ [.burstInd s.time ty] }
    let aach := slice slot 230 14 ++ slice slot 266 16
    exec .tsqSync s = .next
      (lowerMac .sb2 (slice slot 282 216) 2 (lowerMac .bbk (slice slot 252 30) 0
        (lowerMac .sb1 (slice slot 94 120) 1 (open_ .sync)))) ∧
    exec .tsqNorm1 s = .next
      (lowerMac .schF (slice slot 14 216 ++ slice slot 282 216) 1 (lowerMac .bbk aach 0 (open_ .norm1))) ∧
    exec .tsqNorm2 s = .next
      (lowerMac .ndb (slice slot 282 216) 2 (lowerMac .ndb (slice slot 14 216) 1
        (lowerMac .bbk aach 0 (open_ .norm2))))

/-- `SB1` (43_splitter_lower_mac R187, R194): on a failed CRC nothing is committed; on a good one with the frame or the
multiframe number out of range nothing is committed and the warning is raised; else the cell identity, the scrambler
init, the time and the crypto state take the values of the fields of the SYNC PDU (30_encoding R90). -/
def Obligations.Sb1CommitsOnlyOnGoodCrc : Prop :=
  ∀ s : State, s.work.pdu.bits.length = 120 →
    let type1 := blockType1 .sb1 3 s.work.pdu.bits
    let field := fun (a w : Nat) => BitVec.ofNat w (uint (slice type1 a w))
    let f : SyncPdu :=
      { cc := field 4 6, tn := field 10 2, fn := field 12 5, mn := field 17 6, mcc := field 31 10, mnc := field 41 14 }
    let snap : Snap := { time := s.time, blkNum := 1, subblock := .sb1 }
    let inRange := (1 ≤ f.fn.toNat ∧ f.fn.toNat ≤ 18) ∧ (1 ≤ f.mn.toNat ∧ f.mn.toNat ≤ 60)
    (blockOk .sb1 3 s.work.pdu.bits = false → ∃ w : Work, w.pdu = Pdu.empty ∧
      exec .sb1 s = .next (({ s with
        mac := { s.mac with lastCrcFail := true }
        events := s.events ++ [.diag .eCrcFail 0, .blockInd snap .sb1 false type1] } : State).withWork w)) ∧
    (blockOk .sb1 3 s.work.pdu.bits = true → ¬ inRange → ∃ w : Work, w.pdu = Pdu.empty ∧
      exec .sb1 s = .next (({ s with
        mac := { s.mac with lastCrcFail := false }
        events := s.events ++ [.blockInd snap .sb1 true type1,
          .diag .wSyncFieldRange (BitVec.ofNat 32 ((f.fn.toNat <<< 8) ||| f.mn.toNat))] } : State).withWork w)) ∧
    (blockOk .sb1 3 s.work.pdu.bits = true → inRange → ∃ w : Work, w.pdu = Pdu.empty ∧
      exec .sb1 s = .next (({ s with
        cell :=
          { mcc := f.mcc, mnc := f.mnc, cc := f.cc,
            scrambInit := scrambInit f.mcc.toNat f.mnc.toNat f.cc.toNat, valid := true }
        time := { s.time with tn := f.tn.setWidth 3 + 1, fn := f.fn, mn := f.mn }
        cs := { s.cs with
          mcc := some f.mcc, mnc := some f.mnc, cc := some f.cc
          network := lookupNetwork s.db (some f.mcc) (some f.mnc)
          cck := getKsgKey s.db (lookupNetwork s.db (some f.mcc) (some f.mnc)) s.cs.cckId }
        mac := { s.mac with lastCrcFail := false }
        events := s.events ++ [.blockInd snap .sb1 true type1] } : State).withWork w))

/-- `BBK` (43_splitter_lower_mac R196, 45_upper_mac R249, R250): the first 14 descrambled bits are accepted
unconditionally and set `mac.is_traffic`; nothing else changes. -/
def Obligations.BbkSetsTrafficMarker : Prop :=
  ∀ s : State, s.work.pdu.bits.length = 30 → s.cell.valid = true →
    let aach := (scramble s.work.pdu.bits s.cell.scrambInit).take 14
    let hdr := uint (aach.take 2)
    let f1 := uint (slice aach 2 6)
    ∃ w : Work, w.pdu = Pdu.empty ∧ exec .bbk s = .next (({ s with
      mac := { s.mac with isTraffic := if s.time.fn ≠ 18 ∧ hdr ≠ 0 ∧ 3 < f1 then BitVec.ofNat 6 f1 else 0 }
      events := s.events ++ [.blockInd { time := s.time, blkNum := 0, subblock := .bbk } .bbk true aach] } : State).withWork w)

/-- While no cell is valid every sub-block other than `SB1` is dropped: no event, and no change outside the working
registers (43_splitter_lower_mac R193). -/
def Obligations.SubBlocksWaitForCell : Prop :=
  ∀ s : State, s.cell.valid = false →
    (s.work.pdu.bits.length = 216 → ∃ w : Work, exec .sb2 s = .next (s.withWork w)) ∧
    (s.work.pdu.bits.length = 216 → ∃ w : Work, exec .ndb s = .next (s.withWork w)) ∧
    (s.work.pdu.bits.length = 30 → ∃ w : Work, exec .bbk s = .next (s.withWork w)) ∧
    (s.work.pdu.bits.length = 168 → ∃ w : Work, exec .schHu s = .next (s.withWork w)) ∧
    (s.work.pdu.bits.length = 432 → ∃ w : Work, exec .schF s = .next (s.withWork w))

/-- `SB2`, `NDB`, `SCH_HU` and signalling `SCH_F` in a valid cell (43_splitter_lower_mac R187, R192, R197, R199): the
block is decoded, the CRC flag written, `E_CRC_FAIL` raised on failure, `BLOCK_IND` emitted, the block-1 stolen flag set
for a first half block in a traffic slot, and the type-1 bits go to the upper MAC whether the CRC passed or not. That
`SCH_HU` runs this pipeline is read from R187 by inference (log 16); where the block number of `NDB` and `SCH_HU` stands
is the model's (log 17). -/
def Obligations.SignallingBlockGoesToUpperMac : Prop :=
  ∀ s : State, s.cell.valid = true →
    let bits := s.work.pdu.bits
    let init := s.cell.scrambInit
    let result := fun (sb : SubBlock) (blk : BitVec 2) (stolen : Bool) (w : Work) =>
      (umacBlock (blockType1 sb init bits) (blockOk sb init bits)
        (({ s with
          mac := { s.mac with lastCrcFail := !blockOk sb init bits, blk1Stolen := stolen }
          events := s.events ++
            (if blockOk sb init bits = true then []
             else [.diag .eCrcFail (BitVec.ofNat 32 (subBlockCode sb))]) ++
            [.blockInd { time := s.time, blkNum := blk, subblock := sb } sb (blockOk sb init bits)
              (blockType1 sb init bits)] } : State).withWork w)).dropPdu
    (bits.length = 216 → ∃ w : Work, w.snap = { time := s.time, blkNum := 2, subblock := .sb2 } ∧
      exec .sb2 s = .next (result .sb2 2 s.mac.blk1Stolen w)) ∧
    (bits.length = 216 → ∃ w : Work, w.snap = { time := s.time, blkNum := s.work.snap.blkNum, subblock := .ndb } ∧
      exec .ndb s = .next (result .ndb s.work.snap.blkNum
        (if s.work.snap.blkNum = 1 ∧ s.mac.isTraffic ≠ 0 then true else s.mac.blk1Stolen) w)) ∧
    (bits.length = 168 → ∃ w : Work, w.snap = { time := s.time, blkNum := s.work.snap.blkNum, subblock := .schHu } ∧
      exec .schHu s = .next (result .schHu s.work.snap.blkNum s.mac.blk1Stolen w)) ∧
    (bits.length = 432 → s.mac.isTraffic = 0 → ∃ w : Work, w.snap = { time := s.time, blkNum := 1, subblock := .schF } ∧
      exec .schF s = .next (result .schF 1 s.mac.blk1Stolen w))

/-- `SCH_F` in a traffic slot (43_splitter_lower_mac R200, 44_crypto R220): the 432 descrambled bits go out as soft
symbols in `VOICE_IND`, negated under the keystream when one can be generated, and no CRC flag is written. It holds at
the default of `VOICE_DECRYPT_POINT`, which is the model's choice (log 12, log 35), and so is that a table index past the
end gives no keystream (log 19). -/
def Obligations.VoiceBlockDecrypted : Prop :=
  ∀ s : State, s.cell.valid = true → s.mac.isTraffic ≠ 0 → s.work.pdu.bits.length = 432 →
    let v := (scramble s.work.pdu.bits s.cell.scrambInit).map soft
    let snap : Snap := { time := s.time, blkNum := 1, subblock := .schF }
    let ks := s.cs.cck.bind fun k => s.keystream k s.time
    let out := match ks with
      | none => v
      | some k => negateUnder v (if s.mac.blk1Stolen = true then k.drop 216 else k)
    ∃ w : Work, w.pdu = Pdu.empty ∧ exec .schF s = .next (({ s with
      events := s.events ++ (if s.cs.cck.isSome = true then s.ksgReport else []) ++
        [.voiceInd snap ks.isSome out] } : State).withWork w)

/-! Crypto. -/

/-- `update_network` (44_crypto R211 to R213): the network is the first entry with the cell's codes at full table width,
the key the first CCK/SCK entry of that network with the CCK identifier as its number; nothing else changes. -/
def Obligations.LookupsTakeFirstMatch : Prop :=
  ∀ s : State, ∃ n c,
    s.updateNetwork = { s with cs := { s.cs with network := n, cck := c } } ∧
    (∀ i, n = some i ↔ ∃ a b, s.cs.mcc = some a ∧ s.cs.mnc = some b ∧
      (∃ e, s.db.nets[i]? = some e ∧ e.mcc = a.setWidth 16 ∧ e.mnc = b.setWidth 16) ∧
      ∀ j e, j < i → s.db.nets[j]? = some e → ¬ (e.mcc = a.setWidth 16 ∧ e.mnc = b.setWidth 16)) ∧
    (∀ i, c = some i ↔ ∃ m e id, n = some m ∧ s.db.nets[m]? = some e ∧ s.cs.cckId = some id ∧
      (∃ k, s.db.keys[i]? = some k ∧ k.mcc = e.mcc ∧ k.mnc = e.mnc ∧ k.keyType = 4 ∧ k.keyNum = id.setWidth 32) ∧
      ∀ j k, j < i → s.db.keys[j]? = some k →
        ¬ (k.mcc = e.mcc ∧ k.mnc = e.mnc ∧ k.keyType = 4 ∧ k.keyNum = id.setWidth 32))

/-- `generate_keystream` (44_crypto R218): the keystream buffer takes the 432 bits of the network's generator run on the
IV of the snapshot and the ECK, or nothing while a field is unknown, no network matches or the generator is
unsupported, which alone is reported. A table index past the end counts as none: the model's choice (log 19). The IV
packs hyperframe, multiframe, frame and timeslot from the top (R214), the default of `IV_PACK` (log 12). -/
def Obligations.KeystreamFollowsNetwork : Prop :=
  ∀ (s : State) (key : Nat),
    (∃ w : Work, w.ks = (s.keystream key s.work.snap.time).getD [] ∧ w.pdu = s.work.pdu ∧ w.snap = s.work.snap ∧
      w.crcOk = s.work.crcOk ∧ w.consumed = s.work.consumed ∧
      generateKeystream key s = ({ s with events := s.events ++ s.ksgReport } : State).withWork w) ∧
    (∀ ks, s.keystream key s.work.snap.time = some ks → ks.length = 432) ∧
    ∀ (t : Time) (hn : BitVec 16) (dir : BitVec 1), 1 ≤ t.tn.toNat → t.tn.toNat ≤ 4 →
      buildIv t hn dir.toNat =
        (0 : BitVec 3) ++ (dir ++ (hn.setWidth 15 ++ (t.mn ++ (t.fn ++ BitVec.ofNat 2 (t.tn.toNat - 1)))))

/-- `decrypt_mac_element` (44_crypto R219, R223): without a key or a keystream it returns false and the PDU buffer is as
it was; else it returns true and exactly the `n` bits from offset `a` are XORed, from keystream bit 216 on for a second
half block and from bit 0 on otherwise. It rests on the keystream of log 19. -/
def Obligations.MacElementDecryption : Prop :=
  ∀ (s : State) (key : Option Nat) (a n : Nat),
    let r := decryptMacElement key a n s
    let skip := if s.work.snap.blkNum = 2 then 216 else 0
    ((key.bind fun k => s.keystream k s.work.snap.time) = none → r.1 = false ∧ r.2.work.pdu = s.work.pdu) ∧
    (∀ ks, (key.bind fun k => s.keystream k s.work.snap.time) = some ks → a + n ≤ s.work.pdu.bits.length →
      skip + n ≤ 432 → r.1 = true ∧ r.2.work.pdu.bits.length = s.work.pdu.bits.length ∧
        ∀ k, k < s.work.pdu.bits.length → r.2.work.pdu.bits.getD k false =
          if a ≤ k ∧ k < a + n then (s.work.pdu.bits.getD k false ^^ ks.getD (skip + (k - a)) false)
          else s.work.pdu.bits.getD k false) ∧
    s.SameButWork { r.2 with events := s.events }

/-- The rows of the generator codes (44_crypto R216, R217): each generator fills the keystream buffer with its first 54
bytes for the IV and the ECK in the working registers, most significant bits first; every other code reports itself and
leaves no keystream; and the output for `n` bytes is a prefix of that for `n + 1`. That IV and ECK stand in working
registers is the model's (log 5). -/
def Obligations.GeneratorCodesRun : Prop :=
  (∀ s : State,
    let filled := fun (g : BitVec 32 → BitVec 80 → Nat → BitVec 8) =>
      { s with work := { s.work with
        ks := (List.range 54).flatMap fun j => bitsN 8 (g s.work.iv s.work.eck j).toNat } }
    exec .ksgTea1 s = .next (filled Config.ksgTea1Byte) ∧ exec .ksgTea2 s = .next (filled Config.ksgTea2Byte) ∧
    exec .ksgTea3 s = .next (filled Config.ksgTea3Byte)) ∧
  (∀ (s : State) (k : BitVec 8), exec (.ksgUnsupported k) s = .next { s with
    work := { s.work with ks := [] }, events := s.events ++ [.diag .eKsgUnsupported (k.setWidth 32)] }) ∧
  (∀ g iv eck n, ksgBytes g iv eck n = (ksgBytes g iv eck (n + 1)).take n)

/-! The upper MAC. -/

/-- The address types (30_encoding R94): how many address bits each has, and what they hold, in order. -/
def Obligations.AddressTypeTable : Prop :=
  ∀ v : Bits,
    let at_ := BitVec.ofNat 3 (uint (slice v 13 3))
    let ssi := BitVec.ofNat 24 (uint (slice v 16 24))
    (at_ = 0 → addrBits at_ = 0 ∧ readAddr v = { type := 0, ssi := 0, eventLabel := 0, usageMarker := 0 }) ∧
    (at_ = 1 ∨ at_ = 3 ∨ at_ = 4 → addrBits at_ = 24 ∧
      readAddr v = { type := at_, ssi := ssi, eventLabel := 0, usageMarker := 0 }) ∧
    (at_ = 2 → addrBits at_ = 10 ∧
      readAddr v =
        { type := at_, ssi := 0, eventLabel := BitVec.ofNat 10 (uint (slice v 16 10)), usageMarker := 0 }) ∧
    (at_ = 5 ∨ at_ = 7 → addrBits at_ = 34 ∧
      readAddr v =
        { type := at_, ssi := ssi, eventLabel := BitVec.ofNat 10 (uint (slice v 40 10)), usageMarker := 0 }) ∧
    (at_ = 6 → addrBits at_ = 30 ∧
      readAddr v =
        { type := at_, ssi := ssi, eventLabel := 0, usageMarker := BitVec.ofNat 6 (uint (slice v 40 6)) })

/-- `BROADCAST_SYSINFO` (45_upper_mac R234): the fields of a whole SYSINFO PDU (30_encoding R91) feed `mac.sysinfo`, the
crypto state and, without the CCK flag, the hyperframe number of the time, whatever the CRC said; a shorter one only warns. `BROADCAST_ACCESS_DEFINE`
and `BROADCAST_OTHER` are consumed and nothing is decoded (R233). -/
def Obligations.BroadcastPdus : Prop :=
  ∀ (s : State) (b : Bool), s.hasPdu = true →
    let v := s.pduRest
    let field := fun (a w : Nat) => BitVec.ofNat w (uint (slice v a w))
    let f : Sysinfo :=
      { mainCarrier := field 4 12, frequencyBand := field 16 4, offset := field 20 2, duplexSpacing := field 22 3
        reverseOperation := v.getD 25 false, numSecondaryControl := field 26 2, msTxpwrMaxCell := field 28 3
        rxlevAccessMin := field 31 4, accessParameter := field 35 4, radioDownlinkTimeout := field 39 4
        hfCckFlag := v.getD 43 false, hfCckValue := field 44 16, optionalFlag := field 60 2, optionalValue := field 62 20
        locationArea := field 82 14, subscriberClass := field 96 16, bsServiceDetails := field 112 12 }
    let done := { s.work with consumed := Consumed.whole }
    (s.pduRem < 124 → exec .broadcastSysinfo s = .next { s with
      work := done, events := s.events ++ [.diag .wPduLen (BitVec.ofNat 32 s.pduRem)] }) ∧
    (124 ≤ s.pduRem → f.hfCckFlag = false → exec .broadcastSysinfo s = .next { s with
      work := done, mac := { s.mac with sysinfo := some f }, time := { s.time with hn := f.hfCckValue }
      cs := { s.cs with
        cn := some f.mainCarrier, la := some f.locationArea, hn := some f.hfCckValue
        cck := getKsgKey s.db s.cs.network s.cs.cckId } }) ∧
    (124 ≤ s.pduRem → f.hfCckFlag = true → exec .broadcastSysinfo s = .next { s with
      work := done, mac := { s.mac with sysinfo := some f }
      cs := { s.cs with
        cn := some f.mainCarrier, la := some f.locationArea, cckId := some f.hfCckValue
        cck := getKsgKey s.db s.cs.network (some f.hfCckValue) } }) ∧
    exec .broadcastAccessDefine s = .next { s with work := done } ∧
    exec (.broadcastOther b) s = .next { s with work := done }

/-- `MAC_RESOURCE` (45_upper_mac R235, R236): the header fields stand where 30_encoding R93 places them; the null PDU ends
the block without an event and without an address; a header cut short warns; else the address is recorded and the
operation of the length indication runs. -/
def Obligations.ResourceHeaderSelectsLength : Prop :=
  ∀ s : State, s.hasPdu = true →
    let v := s.pduRest
    let field := fun (a w : Nat) => BitVec.ofNat w (uint (slice v a w))
    let hdr : ResHeader :=
      { fill := v.getD 2 false, grant := v.getD 3 false, enc := field 4 2, ra := v.getD 6 false, li := field 7 6
        addrType := field 13 3 }
    let done := { s.work with consumed := Consumed.whole }
    readResHeader v = hdr ∧
    (hdr.addrType = 0 → exec .macResource s = .next { s with work := done }) ∧
    (hdr.addrType ≠ 0 → s.pduRem < 16 + addrBits hdr.addrType → exec .macResource s = .next { s with
      work := done, events := s.events ++ [.diag .wPduLen (BitVec.ofNat 32 s.pduRem)] }) ∧
    (hdr.addrType ≠ 0 → 16 + addrBits hdr.addrType ≤ s.pduRem →
      ∃ t, exec .macResource s = .next t ∧
        exec (decodeLengthInd hdr.li) { s with mac := { s.mac with addr := some (readAddr s.pduRest) } } = .next t)

/-- `LI_OCTETS` with a reserved value, or too short for its own header, warns and ends the block (45_upper_mac R237). -/
def Obligations.BadLengthEndsBlock : Prop :=
  ∀ (s : State) (l : BitVec 6), s.hasResHeader = true →
    let n := min (8 * l.toNat) s.pduRem
    let warn := Event.diag .wPduLen (l.setWidth 32)
    (l = 0 ∨ 34 < l.toNat → exec (.liOctets l) s = .next { s with
      work := { s.work with consumed := .whole }, events := s.events ++ [warn] }) ∧
    (l ≠ 0 → l.toNat ≤ 34 → n < 16 + addrBits (readResHeader s.pduRest).addrType + 3 →
      exec (.liOctets l) s = .next { s with
        work := { s.work with consumed := .whole }
        events := s.events ++ (if s.pduRem < 8 * l.toNat then [warn] else []) ++ [warn] })

/-- `LI_OCTETS` of 1 to 34 and `LI_SECOND_HALF_STOLEN` deliver a PDU that is clear, or clear after decryption
(45_upper_mac R237 to R242, R244): the optional elements are skipped, fill bits stripped, and one `SDU_IND` holds the
PDU from its first bit; the second sets the block-2 stolen flag too, on delivery only (read by inference, log 15).
Nothing else changes. The optional elements are a power control element of 4 bits, a slot granting element of 8 bits and
a channel allocation element, each behind its flag and inside the PDU, and the length of the last is the total of the
widths present (30_encoding R99, R109). -/
def Obligations.ResourcePduDelivered : Prop :=
  (∀ (v : Bits) (c : Nat), Config.chanAllocLen v = some c ↔ c = chanAllocBits v ∧ c ≤ v.length) ∧
  (∀ (b : Bits) (h e q : Nat), resourceElements b h e = some q ↔
    ∃ q1 q2, Flagged b 4 h e q1 ∧ Flagged b 8 q1 e q2 ∧ ChanFlagged b q2 e q) ∧
  ∀ (s s0 u : State) (i : Instr) (li : BitVec 6) (n q : Nat) (ret : Consumed) (dec : Bool),
    s.hasResHeader = true → s.lengthCase i = some (li, n, ret, s0) →
    let hdr := readResHeader s.pduRest
    let h := s.pduPos + 16 + addrBits hdr.addrType
    let e := s.pduPos + n
    s0.Clears u hdr.enc h e dec → resourceElements u.work.pdu.bits h e = some q →
    let last := fillEnd hdr.fill u.work.pdu.bits q e
    let after : State := { u with
      work := { u.work with pdu := { u.work.pdu with l2 := some q }, consumed := ret }
      events := u.events ++ fillReport hdr.fill u.work.pdu.bits q e s.snapTn ++
        [.sduInd
          { snap := s.work.snap, kind := .resource, crcOk := s.work.crcOk, encMode := hdr.enc, decrypted := dec
            addr := s.mac.addr, bits := slice u.work.pdu.bits s.pduPos (last - s.pduPos), l2Off := q - s.pduPos }] }
    (∀ l, i = .liOctets l → exec i s = .next after) ∧
    (i = .liSecondHalfStolen → exec i s = .next { after with mac := { s.mac with blk2Stolen := true } })

/-- `LI_START_OF_FRAGMENTATION` (45_upper_mac R243): the TM-SDU of a PDU that is clear, or clear after decryption, opens
the fragment slot of the snapshot's timeslot, with the key it was decrypted with; nothing is delivered. -/
def Obligations.FragmentationStartOpensSlot : Prop :=
  ∀ (s s0 u : State) (li : BitVec 6) (n q : Nat) (ret : Consumed) (dec : Bool),
    s.hasResHeader = true → s.lengthCase .liStartOfFragmentation = some (li, n, ret, s0) →
    let hdr := readResHeader s.pduRest
    let h := s.pduPos + 16 + addrBits hdr.addrType
    let e := s.pduPos + n
    s0.Clears u hdr.enc h e dec → resourceElements u.work.pdu.bits h e = some q →
    let warned : State := { u with
      events := u.events ++ fillReport hdr.fill u.work.pdu.bits q e s.snapTn }
    let sdu := slice u.work.pdu.bits q (fillEnd hdr.fill u.work.pdu.bits q e - q)
    exec .liStartOfFragmentation s = .next { warned.fragOpen s.snapTn sdu dec (if dec = true then s.cs.cck else none) with
      work := { u.work with consumed := .whole } }

/-- A MAC-RESOURCE that cannot be decrypted stays opaque (45_upper_mac R261): the PDU buffer is as it was, only
diagnostics are emitted, `E_NO_CRYPTO` the last of them; and one whose optional elements run past its end is dropped with
`W_PDU_LEN` (R239). Either way the loop goes on behind it when its length is known. That a dropped
`LI_SECOND_HALF_STOLEN` leaves the block-2 stolen flag as it was is the model's reading of R244, by inference (log 15). -/
def Obligations.UndeliverablePduDropped : Prop :=
  ∀ (s s0 u : State) (i : Instr) (li : BitVec 6) (n : Nat) (ret : Consumed) (dec : Bool),
    s.hasResHeader = true → s.lengthCase i = some (li, n, ret, s0) →
    let hdr := readResHeader s.pduRest
    let h := s.pduPos + 16 + addrBits hdr.addrType
    let e := s.pduPos + n
    (hdr.enc ≠ 0 → decryptMacElement s0.cs.cck h (e - h) s0 = (false, u) →
      exec i s = .next { u with
        work := { u.work with consumed := ret }, events := u.events ++ [.diag .eNoCrypto (hdr.enc.setWidth 32)] } ∧
      u.work.pdu = s.work.pdu ∧ u.frag = s0.frag ∧ ∃ ev, u.events = s0.events ++ ev ∧ ∀ x ∈ ev, ∃ c k, x = .diag c k) ∧
    (s0.Clears u hdr.enc h e dec → resourceElements u.work.pdu.bits h e = none →
      exec i s = .next { u with
        work := { u.work with consumed := ret }, events := u.events ++ [.diag .wPduLen (li.setWidth 32)] })

/-- The three operations on fragment slots (45_upper_mac R251 to R255): opening discards a stale slot with
`E_FRAG_REENTRY`; appending adds the bits, counts the fragment and resets the age; what does not fit raises `E_RESOURCE`
and leaves the slot reset; finalizing an active slot delivers everything accumulated and resets it, and does nothing to
an inactive one. No other slot and nothing else changes. -/
def Obligations.FragmentSlotOperations : Prop :=
  ∀ (s : State) (tn : BitVec 3) (p : Bits) (enc : Bool) (key : Option Nat), tn = 1 ∨ tn = 2 ∨ tn = 3 ∨ tn = 4 →
    let f := s.fragAt tn
    let full := Event.diag .eResource (tn.setWidth 32)
    let stale := if f.active = true then [Event.diag .eFragReentry (tn.setWidth 32)] else []
    s.fragOpen tn p enc key =
      (if fitsFragBuf p.length = true then { s with
        frag := s.frag.set tn
          { active := true, age := 0, numFrags := 1, length := p.length, encrypted := enc, key := key, buf := p }
        events := s.events ++ stale }
       else { s with
        frag := if f.active = true then s.frag.set tn FragSlot.reset else s.frag
        events := s.events ++ stale ++ [full] }) ∧
    s.fragAppend tn p =
      (if fitsFragBuf (f.length + p.length) = true then { s with
        frag := s.frag.set tn { f with
          buf := f.buf ++ p, length := f.length + p.length, numFrags := f.numFrags + 1, age := 0 } }
       else { s with frag := s.frag.set tn FragSlot.reset, events := s.events ++ [full] }) ∧
    (∀ x : FragSlot, ({ s with frag := s.frag.set tn x } : State).fragAt tn = x ∧
      ∀ k, k ≠ tn → ({ s with frag := s.frag.set tn x } : State).fragAt k = s.fragAt k) ∧
    s.fragFinalize tn =
      (if f.active = true then { s with
        frag := s.frag.set tn FragSlot.reset
        events := s.events ++
          [.sduInd
            { snap := s.work.snap, kind := .reassembled, crcOk := s.work.crcOk
              encMode := if f.encrypted = true then 1 else 0, decrypted := f.encrypted, addr := s.mac.addr
              bits := f.buf, l2Off := 0 }] }
       else s)

/-- `MAC_FRAG` (45_upper_mac R245, R247): without an active slot it is discarded with a warning; on a clear slot, or on
an encrypted one whose key decrypts it, the stripped bits to the end of the block are appended; when decryption fails the
slot is cleaned up. In every case it takes the whole block. -/
def Obligations.MacFragContinuesSlot : Prop :=
  ∀ s u : State, s.hasPdu = true →
    let f := s.fragAt s.snapTn
    let fill := s.pduRest.getD 3 false
    let q := s.pduPos + 4
    let e := s.work.pdu.bits.length
    (f.active = false → exec .macFrag s = .next { s with
      work := { s.work with consumed := .whole }
      events := s.events ++ [.diag .wFragNoSlot (s.snapTn.setWidth 32)] }) ∧
    (f.active = true → s.FragClears u q e →
      let warned : State := { u with events := u.events ++ fillReport fill u.work.pdu.bits q e s.snapTn }
      exec .macFrag s = .next
        { warned.fragAppend s.snapTn (slice u.work.pdu.bits q (fillEnd fill u.work.pdu.bits q e - q)) with
          work := { u.work with consumed := .whole } }) ∧
    (f.active = true → f.encrypted = true → decryptMacElement f.key q (e - q) s = (false, u) →
      exec .macFrag s = .next { u with
        work := { u.work with consumed := .whole }, frag := u.frag.set s.snapTn FragSlot.reset
        events := u.events ++ [.diag .eNoCrypto 1] })

/-- `MAC_END` (45_upper_mac R246, R247): a reserved length or one too short ends the block with a warning; otherwise `n`
bits are taken, without an active slot with a warning only; decryption as for `MAC_FRAG`; optional elements past the end
warn and clean the slot up; else the stripped bits are appended and the message is delivered. The optional elements are a
slot granting element of 8 bits and a channel allocation element, each behind its flag and inside the PDU. -/
def Obligations.MacEndFinalizesSlot : Prop :=
  (∀ (b : Bits) (h e q : Nat), endElements b h e = some q ↔ ∃ q1, Flagged b 8 h e q1 ∧ ChanFlagged b q1 e q) ∧
  ∀ s u : State, s.hasPdu = true →
    let li := BitVec.ofNat 6 (uint (slice s.pduRest 5 6))
    let fill := s.pduRest.getD 3 false
    let warn := Event.diag .wPduLen (li.setWidth 32)
    let n := min (8 * li.toNat) s.pduRem
    let s0 : State := if s.pduRem < 8 * li.toNat then { s with events := s.events ++ [warn] } else s
    let f := s.fragAt s.snapTn
    let h := s.pduPos + 11
    let e := s.pduPos + n
    let ret := Consumed.bits n
    (li = 0 ∨ 34 < li.toNat → exec .macEnd s = .next { s with
      work := { s.work with consumed := .whole }, events := s.events ++ [warn] }) ∧
    (li ≠ 0 → li.toNat ≤ 34 → n < 16 → exec .macEnd s = .next { s0 with
      work := { s.work with consumed := .whole }, events := s0.events ++ [warn] }) ∧
    (li ≠ 0 → li.toNat ≤ 34 → 16 ≤ n →
      (f.active = false → exec .macEnd s = .next { s0 with
        work := { s.work with consumed := ret }
        events := s0.events ++ [.diag .wFragNoSlot (s.snapTn.setWidth 32)] }) ∧
      (f.active = true → f.encrypted = true → decryptMacElement f.key h (e - h) s0 = (false, u) →
        exec .macEnd s = .next { u with
          work := { u.work with consumed := ret }, frag := u.frag.set s.snapTn FragSlot.reset
          events := u.events ++ [.diag .eNoCrypto 1] }) ∧
      (f.active = true → s0.FragClears u h e → endElements u.work.pdu.bits h e = none →
        exec .macEnd s = .next { u with
          work := { u.work with consumed := ret }, frag := u.frag.set s.snapTn FragSlot.reset
          events := u.events ++ [warn] }) ∧
      (∀ q, f.active = true → s0.FragClears u h e → endElements u.work.pdu.bits h e = some q →
        let warned : State := { u with events := u.events ++ fillReport fill u.work.pdu.bits q e s.snapTn }
        let p := slice u.work.pdu.bits q (fillEnd fill u.work.pdu.bits q e - q)
        exec .macEnd s = .next
          { (warned.fragAppend s.snapTn p).fragFinalize s.snapTn with work := { u.work with consumed := ret } }))

/-- `MAC_SUPPLEMENTARY` (45_upper_mac R248): a header that does not fit warns; otherwise the rest of the block is
forwarded undecrypted and unstripped, with no address, the TM-SDU 18 or 26 bits behind its start. -/
def Obligations.SupplementaryForwarded : Prop :=
  ∀ s : State, s.hasPdu = true →
    let skip := if s.pduRest.getD 17 false = true then 26 else 18
    let done := { s.work with consumed := Consumed.whole }
    (s.pduRem < 18 ∨ s.pduRem < skip → exec .macSupplementary s = .next { s with
      work := done, events := s.events ++ [.diag .wPduLen (BitVec.ofNat 32 s.pduRem)] }) ∧
    (18 ≤ s.pduRem → skip ≤ s.pduRem → exec .macSupplementary s = .next { s with
      work := done
      events := s.events ++
        [.sduInd
          { snap := s.work.snap, kind := .suppl, crcOk := s.work.crcOk
            encMode := BitVec.ofNat 2 (uint (slice s.pduRest 4 2)), decrypted := false, addr := none
            bits := s.pduRest, l2Off := skip }] })

/-! The model's own stops. -/

/-- An operation inside the pipeline run by itself stops exactly while its operand is absent, and goes on otherwise; of the
words on the port exactly a selector that no row lists is refused: the model's choice, since the spec says nothing there
(log 6, log 7). -/
def Obligations.AbsentOperandStops : Prop :=
  (∀ s : State,
    let stops := fun (i : Instr) (f : Fault) (absent : Prop) =>
      (exec i s = .fault f ↔ absent) ∧ (¬ absent → ∃ t, exec i s = .next t)
    let n := s.work.pdu.bits.length
    let noSlot := s.sync.bitbuf.length < 510
    let noPdu := ∀ p, s.work.pdu.l1 = some p → n < p + 16
    let noHeader := ∀ p, s.work.pdu.l1 = some p →
      n < p + 16 + addrBits (BitVec.ofNat 3 (uint (slice (s.work.pdu.bits.drop p) 13 3)))
    stops .tsqSync .slotAbsent noSlot ∧ stops .tsqNorm1 .slotAbsent noSlot ∧ stops .tsqNorm2 .slotAbsent noSlot ∧
    stops .sb1 .subBlockAbsent (n ≠ 120) ∧ stops .sb2 .subBlockAbsent (n ≠ 216) ∧
    stops .ndb .subBlockAbsent (n ≠ 216) ∧ stops .bbk .subBlockAbsent (n ≠ 30) ∧
    stops .schHu .subBlockAbsent (n ≠ 168) ∧ stops .schF .subBlockAbsent (n ≠ 432) ∧
    stops .macResource .pduAbsent noPdu ∧ stops .macFrag .pduAbsent noPdu ∧ stops .macEnd .pduAbsent noPdu ∧
    stops .broadcastSysinfo .pduAbsent noPdu ∧ stops .broadcastAccessDefine .pduAbsent noPdu ∧
    (∀ b, stops (.broadcastOther b) .pduAbsent noPdu) ∧ stops .macSupplementary .pduAbsent noPdu ∧
    (∀ l, stops (.liOctets l) .headerAbsent noHeader) ∧ stops .liSecondHalfStolen .headerAbsent noHeader ∧
    stops .liStartOfFragmentation .headerAbsent noHeader) ∧
  (∀ (s : State) (p : PortWord) (rest : List PortWord), s.port = p :: rest →
    (step s = .refused .noSuchEncoding ↔ p.isCommand = false ∧ ∃ r, decode p = .reject r))
end

