-- ==== Sys2Proof/Laws/Bits.lean ====
section
/-! SUPPORT. The small lemmas of slices, fields and codecs (00_scope R9, R10, 41_codecs): lengths, and the two directions
of field reading. -/

namespace Sys2Proof

@[simp] theorem slice_length {α : Type} (v : List α) (a w : Nat) : (slice v a w).length = min w (v.length - a) := by
  simp [slice]

theorem slice_all {α : Type} (v : List α) : slice v 0 v.length = v := by simp [slice]

@[simp] theorem bitsN_length (n x : Nat) : (bitsN n x).length = n := by simp [bitsN]

@[simp] theorem xorBits_length (v k : Bits) : (xorBits v k).length = v.length := by
  induction v generalizing k with
  | nil => cases k <;> rfl
  | cons b v ih => cases k with
    | nil => rfl
    | cons c k => simp [xorBits, ih]

/-- XOR with the same bits twice is nothing. -/
theorem xorBits_xorBits (v k : Bits) : xorBits (xorBits v k) k = v := by
  induction v generalizing k with
  | nil => cases k <;> rfl
  | cons b v ih => cases k with
    | nil => rfl
    | cons c k => simp [xorBits, ih]

theorem uint_append_singleton (v : Bits) (b : Bool) : uint (v ++ [b]) = 2 * uint v + b.toNat := by
  simp [uint, List.foldl_append]

/-- A field of `n` bits is below `2 ^ n` (00_scope R10). -/
theorem uint_lt (v : Bits) : uint v < 2 ^ v.length := by
  suffices h : ∀ (v : Bits) (n : Nat), v.foldl (fun n b => 2 * n + b.toNat) n < (n + 1) * 2 ^ v.length by
    simpa [uint] using h v 0
  intro v
  induction v with
  | nil => intro n; simp
  | cons b v ih =>
    intro n
    have hb : b.toNat ≤ 1 := Bool.toNat_le b
    calc v.foldl (fun n b => 2 * n + b.toNat) (2 * n + b.toNat) < (2 * n + b.toNat + 1) * 2 ^ v.length := ih _
      _ ≤ (2 * (n + 1)) * 2 ^ v.length := Nat.mul_le_mul_right _ (by omega)
      _ = (n + 1) * 2 ^ (b :: v).length := by
        rw [List.length_cons, Nat.pow_succ, Nat.mul_comm 2 (n + 1), Nat.mul_assoc, Nat.mul_comm 2]

@[simp] theorem scrambleRun_length (l : BitVec 32) (n : Nat) : (scrambleRun l n).1.length = n := by
  induction n generalizing l with
  | zero => rfl
  | succ n ih => simp [scrambleRun, ih]

@[simp] theorem scrambleSeq_length (init : BitVec 32) (n : Nat) : (scrambleSeq init n).length = n :=
  scrambleRun_length init n

@[simp] theorem scramble_length (x : Bits) (init : BitVec 32) : (scramble x init).length = x.length := by
  simp [scramble]

@[simp] theorem blockDeinterleave_length {α : Type} (hole : α) (K a : Nat) (y : List α) :
    (blockDeinterleave hole K a y).length = K := by simp [blockDeinterleave]

theorem foldl_set_length {α β : Type} (f : β → Nat) (g : β → α) (l : List β) (y : List α) :
    (l.foldl (fun y i => y.set (f i) (g i)) y).length = y.length := by
  induction l generalizing y with
  | nil => rfl
  | cons b l ih => simp [ih]

@[simp] theorem blockInterleave_length {α : Type} (hole : α) (K a : Nat) (x : List α) :
    (blockInterleave hole K a x).length = K := by
  simp [blockInterleave, foldl_set_length]

theorem depunctureFrom_length (p : Puncturer) (j : Nat) (y m : List Soft) :
    (depunctureFrom p j y m).length = m.length := by
  induction y generalizing j m with
  | nil => rfl
  | cons a y ih => simp [depunctureFrom, ih]

@[simp] theorem depuncture_length (p : Puncturer) (y : List Soft) (n : Nat) : (depuncture p y n).length = n := by
  simp [depuncture, depunctureFrom_length]

@[simp] theorem puncture_length (p : Puncturer) (m : Bits) (n : Nat) : (puncture p m n).length = n := by
  simp [puncture]

@[simp] theorem convEncodeWith_length (N K : Nat) (gen : List Nat) (s : Nat) (u : Bits) :
    (convEncodeWith N K gen s u).length = N * u.length := by
  induction u generalizing s with
  | nil => simp [convEncodeWith]
  | cons b u ih => simp [convEncodeWith, convOuts, ih, Nat.mul_succ, Nat.add_comm]

@[simp] theorem expandBytes_length (l : List (BitVec 8)) : (expandBytes l).length = 8 * l.length := by
  induction l with
  | nil => rfl
  | cons b l ih => simp [expandBytes] at ih ⊢; omega

end Sys2Proof
end

