-- ==== Sys2Proof/Laws/State.lean ====
section
/-! SUPPORT. One lemma per field of `State` per update and per named operation of Ops and Flags, true by `rfl`, so that
no proof unfolds a record update. -/

namespace Sys2Proof.Machine

/-! The ten updates. -/

@[simp] theorem State.withSync_sync (s : State) (x : SyncRegs) : (s.withSync x).sync = x := rfl
@[simp] theorem State.withSync_time (s : State) (x : SyncRegs) : (s.withSync x).time = s.time := rfl
@[simp] theorem State.withSync_work (s : State) (x : SyncRegs) : (s.withSync x).work = s.work := rfl
@[simp] theorem State.withSync_cell (s : State) (x : SyncRegs) : (s.withSync x).cell = s.cell := rfl
@[simp] theorem State.withSync_cs (s : State) (x : SyncRegs) : (s.withSync x).cs = s.cs := rfl
@[simp] theorem State.withSync_mac (s : State) (x : SyncRegs) : (s.withSync x).mac = s.mac := rfl
@[simp] theorem State.withSync_frag (s : State) (x : SyncRegs) : (s.withSync x).frag = s.frag := rfl
@[simp] theorem State.withSync_db (s : State) (x : SyncRegs) : (s.withSync x).db = s.db := rfl
@[simp] theorem State.withSync_port (s : State) (x : SyncRegs) : (s.withSync x).port = s.port := rfl
@[simp] theorem State.withSync_events (s : State) (x : SyncRegs) : (s.withSync x).events = s.events := rfl

@[simp] theorem State.withTime_sync (s : State) (x : Time) : (s.withTime x).sync = s.sync := rfl
@[simp] theorem State.withTime_time (s : State) (x : Time) : (s.withTime x).time = x := rfl
@[simp] theorem State.withTime_work (s : State) (x : Time) : (s.withTime x).work = s.work := rfl
@[simp] theorem State.withTime_cell (s : State) (x : Time) : (s.withTime x).cell = s.cell := rfl
@[simp] theorem State.withTime_cs (s : State) (x : Time) : (s.withTime x).cs = s.cs := rfl
@[simp] theorem State.withTime_mac (s : State) (x : Time) : (s.withTime x).mac = s.mac := rfl
@[simp] theorem State.withTime_frag (s : State) (x : Time) : (s.withTime x).frag = s.frag := rfl
@[simp] theorem State.withTime_db (s : State) (x : Time) : (s.withTime x).db = s.db := rfl
@[simp] theorem State.withTime_port (s : State) (x : Time) : (s.withTime x).port = s.port := rfl
@[simp] theorem State.withTime_events (s : State) (x : Time) : (s.withTime x).events = s.events := rfl

@[simp] theorem State.withWork_sync (s : State) (x : Work) : (s.withWork x).sync = s.sync := rfl
@[simp] theorem State.withWork_time (s : State) (x : Work) : (s.withWork x).time = s.time := rfl
@[simp] theorem State.withWork_work (s : State) (x : Work) : (s.withWork x).work = x := rfl
@[simp] theorem State.withWork_cell (s : State) (x : Work) : (s.withWork x).cell = s.cell := rfl
@[simp] theorem State.withWork_cs (s : State) (x : Work) : (s.withWork x).cs = s.cs := rfl
@[simp] theorem State.withWork_mac (s : State) (x : Work) : (s.withWork x).mac = s.mac := rfl
@[simp] theorem State.withWork_frag (s : State) (x : Work) : (s.withWork x).frag = s.frag := rfl
@[simp] theorem State.withWork_db (s : State) (x : Work) : (s.withWork x).db = s.db := rfl
@[simp] theorem State.withWork_port (s : State) (x : Work) : (s.withWork x).port = s.port := rfl
@[simp] theorem State.withWork_events (s : State) (x : Work) : (s.withWork x).events = s.events := rfl

@[simp] theorem State.withCell_sync (s : State) (x : Cell) : (s.withCell x).sync = s.sync := rfl
@[simp] theorem State.withCell_time (s : State) (x : Cell) : (s.withCell x).time = s.time := rfl
@[simp] theorem State.withCell_work (s : State) (x : Cell) : (s.withCell x).work = s.work := rfl
@[simp] theorem State.withCell_cell (s : State) (x : Cell) : (s.withCell x).cell = x := rfl
@[simp] theorem State.withCell_cs (s : State) (x : Cell) : (s.withCell x).cs = s.cs := rfl
@[simp] theorem State.withCell_mac (s : State) (x : Cell) : (s.withCell x).mac = s.mac := rfl
@[simp] theorem State.withCell_frag (s : State) (x : Cell) : (s.withCell x).frag = s.frag := rfl
@[simp] theorem State.withCell_db (s : State) (x : Cell) : (s.withCell x).db = s.db := rfl
@[simp] theorem State.withCell_port (s : State) (x : Cell) : (s.withCell x).port = s.port := rfl
@[simp] theorem State.withCell_events (s : State) (x : Cell) : (s.withCell x).events = s.events := rfl

@[simp] theorem State.withCs_sync (s : State) (x : Crypto) : (s.withCs x).sync = s.sync := rfl
@[simp] theorem State.withCs_time (s : State) (x : Crypto) : (s.withCs x).time = s.time := rfl
@[simp] theorem State.withCs_work (s : State) (x : Crypto) : (s.withCs x).work = s.work := rfl
@[simp] theorem State.withCs_cell (s : State) (x : Crypto) : (s.withCs x).cell = s.cell := rfl
@[simp] theorem State.withCs_cs (s : State) (x : Crypto) : (s.withCs x).cs = x := rfl
@[simp] theorem State.withCs_mac (s : State) (x : Crypto) : (s.withCs x).mac = s.mac := rfl
@[simp] theorem State.withCs_frag (s : State) (x : Crypto) : (s.withCs x).frag = s.frag := rfl
@[simp] theorem State.withCs_db (s : State) (x : Crypto) : (s.withCs x).db = s.db := rfl
@[simp] theorem State.withCs_port (s : State) (x : Crypto) : (s.withCs x).port = s.port := rfl
@[simp] theorem State.withCs_events (s : State) (x : Crypto) : (s.withCs x).events = s.events := rfl

@[simp] theorem State.withMac_sync (s : State) (x : Mac) : (s.withMac x).sync = s.sync := rfl
@[simp] theorem State.withMac_time (s : State) (x : Mac) : (s.withMac x).time = s.time := rfl
@[simp] theorem State.withMac_work (s : State) (x : Mac) : (s.withMac x).work = s.work := rfl
@[simp] theorem State.withMac_cell (s : State) (x : Mac) : (s.withMac x).cell = s.cell := rfl
@[simp] theorem State.withMac_cs (s : State) (x : Mac) : (s.withMac x).cs = s.cs := rfl
@[simp] theorem State.withMac_mac (s : State) (x : Mac) : (s.withMac x).mac = x := rfl
@[simp] theorem State.withMac_frag (s : State) (x : Mac) : (s.withMac x).frag = s.frag := rfl
@[simp] theorem State.withMac_db (s : State) (x : Mac) : (s.withMac x).db = s.db := rfl
@[simp] theorem State.withMac_port (s : State) (x : Mac) : (s.withMac x).port = s.port := rfl
@[simp] theorem State.withMac_events (s : State) (x : Mac) : (s.withMac x).events = s.events := rfl

@[simp] theorem State.withFrag_sync (s : State) (x : FragFile) : (s.withFrag x).sync = s.sync := rfl
@[simp] theorem State.withFrag_time (s : State) (x : FragFile) : (s.withFrag x).time = s.time := rfl
@[simp] theorem State.withFrag_work (s : State) (x : FragFile) : (s.withFrag x).work = s.work := rfl
@[simp] theorem State.withFrag_cell (s : State) (x : FragFile) : (s.withFrag x).cell = s.cell := rfl
@[simp] theorem State.withFrag_cs (s : State) (x : FragFile) : (s.withFrag x).cs = s.cs := rfl
@[simp] theorem State.withFrag_mac (s : State) (x : FragFile) : (s.withFrag x).mac = s.mac := rfl
@[simp] theorem State.withFrag_frag (s : State) (x : FragFile) : (s.withFrag x).frag = x := rfl
@[simp] theorem State.withFrag_db (s : State) (x : FragFile) : (s.withFrag x).db = s.db := rfl
@[simp] theorem State.withFrag_port (s : State) (x : FragFile) : (s.withFrag x).port = s.port := rfl
@[simp] theorem State.withFrag_events (s : State) (x : FragFile) : (s.withFrag x).events = s.events := rfl

@[simp] theorem State.withDb_sync (s : State) (x : Db) : (s.withDb x).sync = s.sync := rfl
@[simp] theorem State.withDb_time (s : State) (x : Db) : (s.withDb x).time = s.time := rfl
@[simp] theorem State.withDb_work (s : State) (x : Db) : (s.withDb x).work = s.work := rfl
@[simp] theorem State.withDb_cell (s : State) (x : Db) : (s.withDb x).cell = s.cell := rfl
@[simp] theorem State.withDb_cs (s : State) (x : Db) : (s.withDb x).cs = s.cs := rfl
@[simp] theorem State.withDb_mac (s : State) (x : Db) : (s.withDb x).mac = s.mac := rfl
@[simp] theorem State.withDb_frag (s : State) (x : Db) : (s.withDb x).frag = s.frag := rfl
@[simp] theorem State.withDb_db (s : State) (x : Db) : (s.withDb x).db = x := rfl
@[simp] theorem State.withDb_port (s : State) (x : Db) : (s.withDb x).port = s.port := rfl
@[simp] theorem State.withDb_events (s : State) (x : Db) : (s.withDb x).events = s.events := rfl

@[simp] theorem State.withPort_sync (s : State) (x : List PortWord) : (s.withPort x).sync = s.sync := rfl
@[simp] theorem State.withPort_time (s : State) (x : List PortWord) : (s.withPort x).time = s.time := rfl
@[simp] theorem State.withPort_work (s : State) (x : List PortWord) : (s.withPort x).work = s.work := rfl
@[simp] theorem State.withPort_cell (s : State) (x : List PortWord) : (s.withPort x).cell = s.cell := rfl
@[simp] theorem State.withPort_cs (s : State) (x : List PortWord) : (s.withPort x).cs = s.cs := rfl
@[simp] theorem State.withPort_mac (s : State) (x : List PortWord) : (s.withPort x).mac = s.mac := rfl
@[simp] theorem State.withPort_frag (s : State) (x : List PortWord) : (s.withPort x).frag = s.frag := rfl
@[simp] theorem State.withPort_db (s : State) (x : List PortWord) : (s.withPort x).db = s.db := rfl
@[simp] theorem State.withPort_port (s : State) (x : List PortWord) : (s.withPort x).port = x := rfl
@[simp] theorem State.withPort_events (s : State) (x : List PortWord) : (s.withPort x).events = s.events := rfl

@[simp] theorem State.withEvents_sync (s : State) (x : List Event) : (s.withEvents x).sync = s.sync := rfl
@[simp] theorem State.withEvents_time (s : State) (x : List Event) : (s.withEvents x).time = s.time := rfl
@[simp] theorem State.withEvents_work (s : State) (x : List Event) : (s.withEvents x).work = s.work := rfl
@[simp] theorem State.withEvents_cell (s : State) (x : List Event) : (s.withEvents x).cell = s.cell := rfl
@[simp] theorem State.withEvents_cs (s : State) (x : List Event) : (s.withEvents x).cs = s.cs := rfl
@[simp] theorem State.withEvents_mac (s : State) (x : List Event) : (s.withEvents x).mac = s.mac := rfl
@[simp] theorem State.withEvents_frag (s : State) (x : List Event) : (s.withEvents x).frag = s.frag := rfl
@[simp] theorem State.withEvents_db (s : State) (x : List Event) : (s.withEvents x).db = s.db := rfl
@[simp] theorem State.withEvents_port (s : State) (x : List Event) : (s.withEvents x).port = s.port := rfl
@[simp] theorem State.withEvents_events (s : State) (x : List Event) : (s.withEvents x).events = x := rfl

/-! The named operations: the fields they leave alone. -/

@[simp] theorem State.emit_sync (s : State) (e : Event) : (s.emit e).sync = s.sync := rfl
@[simp] theorem State.emit_time (s : State) (e : Event) : (s.emit e).time = s.time := rfl
@[simp] theorem State.emit_work (s : State) (e : Event) : (s.emit e).work = s.work := rfl
@[simp] theorem State.emit_cell (s : State) (e : Event) : (s.emit e).cell = s.cell := rfl
@[simp] theorem State.emit_cs (s : State) (e : Event) : (s.emit e).cs = s.cs := rfl
@[simp] theorem State.emit_mac (s : State) (e : Event) : (s.emit e).mac = s.mac := rfl
@[simp] theorem State.emit_frag (s : State) (e : Event) : (s.emit e).frag = s.frag := rfl
@[simp] theorem State.emit_db (s : State) (e : Event) : (s.emit e).db = s.db := rfl
@[simp] theorem State.emit_port (s : State) (e : Event) : (s.emit e).port = s.port := rfl

@[simp] theorem State.raise_sync (s : State) (c : Cause) (i : BitVec 32) : (s.raise c i).sync = s.sync := rfl
@[simp] theorem State.raise_time (s : State) (c : Cause) (i : BitVec 32) : (s.raise c i).time = s.time := rfl
@[simp] theorem State.raise_work (s : State) (c : Cause) (i : BitVec 32) : (s.raise c i).work = s.work := rfl
@[simp] theorem State.raise_cell (s : State) (c : Cause) (i : BitVec 32) : (s.raise c i).cell = s.cell := rfl
@[simp] theorem State.raise_cs (s : State) (c : Cause) (i : BitVec 32) : (s.raise c i).cs = s.cs := rfl
@[simp] theorem State.raise_mac (s : State) (c : Cause) (i : BitVec 32) : (s.raise c i).mac = s.mac := rfl
@[simp] theorem State.raise_frag (s : State) (c : Cause) (i : BitVec 32) : (s.raise c i).frag = s.frag := rfl
@[simp] theorem State.raise_db (s : State) (c : Cause) (i : BitVec 32) : (s.raise c i).db = s.db := rfl
@[simp] theorem State.raise_port (s : State) (c : Cause) (i : BitVec 32) : (s.raise c i).port = s.port := rfl

@[simp] theorem State.raiseNat_sync (s : State) (c : Cause) (n : Nat) : (s.raiseNat c n).sync = s.sync := rfl
@[simp] theorem State.raiseNat_time (s : State) (c : Cause) (n : Nat) : (s.raiseNat c n).time = s.time := rfl
@[simp] theorem State.raiseNat_work (s : State) (c : Cause) (n : Nat) : (s.raiseNat c n).work = s.work := rfl
@[simp] theorem State.raiseNat_cell (s : State) (c : Cause) (n : Nat) : (s.raiseNat c n).cell = s.cell := rfl
@[simp] theorem State.raiseNat_cs (s : State) (c : Cause) (n : Nat) : (s.raiseNat c n).cs = s.cs := rfl
@[simp] theorem State.raiseNat_mac (s : State) (c : Cause) (n : Nat) : (s.raiseNat c n).mac = s.mac := rfl
@[simp] theorem State.raiseNat_frag (s : State) (c : Cause) (n : Nat) : (s.raiseNat c n).frag = s.frag := rfl
@[simp] theorem State.raiseNat_db (s : State) (c : Cause) (n : Nat) : (s.raiseNat c n).db = s.db := rfl
@[simp] theorem State.raiseNat_port (s : State) (c : Cause) (n : Nat) : (s.raiseNat c n).port = s.port := rfl

@[simp] theorem State.bitbufAppend_time (s : State) (b : Bool) : (s.bitbufAppend b).time = s.time := rfl
@[simp] theorem State.bitbufAppend_work (s : State) (b : Bool) : (s.bitbufAppend b).work = s.work := rfl
@[simp] theorem State.bitbufAppend_cell (s : State) (b : Bool) : (s.bitbufAppend b).cell = s.cell := rfl
@[simp] theorem State.bitbufAppend_cs (s : State) (b : Bool) : (s.bitbufAppend b).cs = s.cs := rfl
@[simp] theorem State.bitbufAppend_mac (s : State) (b : Bool) : (s.bitbufAppend b).mac = s.mac := rfl
@[simp] theorem State.bitbufAppend_frag (s : State) (b : Bool) : (s.bitbufAppend b).frag = s.frag := rfl
@[simp] theorem State.bitbufAppend_db (s : State) (b : Bool) : (s.bitbufAppend b).db = s.db := rfl
@[simp] theorem State.bitbufAppend_port (s : State) (b : Bool) : (s.bitbufAppend b).port = s.port := rfl
@[simp] theorem State.bitbufAppend_events (s : State) (b : Bool) : (s.bitbufAppend b).events = s.events := rfl

@[simp] theorem State.bitbufDiscard_time (s : State) (d : Nat) : (s.bitbufDiscard d).time = s.time := rfl
@[simp] theorem State.bitbufDiscard_work (s : State) (d : Nat) : (s.bitbufDiscard d).work = s.work := rfl
@[simp] theorem State.bitbufDiscard_cell (s : State) (d : Nat) : (s.bitbufDiscard d).cell = s.cell := rfl
@[simp] theorem State.bitbufDiscard_cs (s : State) (d : Nat) : (s.bitbufDiscard d).cs = s.cs := rfl
@[simp] theorem State.bitbufDiscard_mac (s : State) (d : Nat) : (s.bitbufDiscard d).mac = s.mac := rfl
@[simp] theorem State.bitbufDiscard_frag (s : State) (d : Nat) : (s.bitbufDiscard d).frag = s.frag := rfl
@[simp] theorem State.bitbufDiscard_db (s : State) (d : Nat) : (s.bitbufDiscard d).db = s.db := rfl
@[simp] theorem State.bitbufDiscard_port (s : State) (d : Nat) : (s.bitbufDiscard d).port = s.port := rfl
@[simp] theorem State.bitbufDiscard_events (s : State) (d : Nat) : (s.bitbufDiscard d).events = s.events := rfl

@[simp] theorem State.setSyncState_time (s : State) (x : SyncState) : (s.setSyncState x).time = s.time := rfl
@[simp] theorem State.setSyncState_work (s : State) (x : SyncState) : (s.setSyncState x).work = s.work := rfl
@[simp] theorem State.setSyncState_cell (s : State) (x : SyncState) : (s.setSyncState x).cell = s.cell := rfl
@[simp] theorem State.setSyncState_cs (s : State) (x : SyncState) : (s.setSyncState x).cs = s.cs := rfl
@[simp] theorem State.setSyncState_mac (s : State) (x : SyncState) : (s.setSyncState x).mac = s.mac := rfl
@[simp] theorem State.setSyncState_frag (s : State) (x : SyncState) : (s.setSyncState x).frag = s.frag := rfl
@[simp] theorem State.setSyncState_db (s : State) (x : SyncState) : (s.setSyncState x).db = s.db := rfl
@[simp] theorem State.setSyncState_port (s : State) (x : SyncState) : (s.setSyncState x).port = s.port := rfl
@[simp] theorem State.setSyncState_events (s : State) (x : SyncState) : (s.setSyncState x).events = s.events := rfl

@[simp] theorem State.setNextFrameStart_time (s : State) (n : Nat) : (s.setNextFrameStart n).time = s.time := rfl
@[simp] theorem State.setNextFrameStart_work (s : State) (n : Nat) : (s.setNextFrameStart n).work = s.work := rfl
@[simp] theorem State.setNextFrameStart_cell (s : State) (n : Nat) : (s.setNextFrameStart n).cell = s.cell := rfl
@[simp] theorem State.setNextFrameStart_cs (s : State) (n : Nat) : (s.setNextFrameStart n).cs = s.cs := rfl
@[simp] theorem State.setNextFrameStart_mac (s : State) (n : Nat) : (s.setNextFrameStart n).mac = s.mac := rfl
@[simp] theorem State.setNextFrameStart_frag (s : State) (n : Nat) : (s.setNextFrameStart n).frag = s.frag := rfl
@[simp] theorem State.setNextFrameStart_db (s : State) (n : Nat) : (s.setNextFrameStart n).db = s.db := rfl
@[simp] theorem State.setNextFrameStart_port (s : State) (n : Nat) : (s.setNextFrameStart n).port = s.port := rfl
@[simp] theorem State.setNextFrameStart_events (s : State) (n : Nat) : (s.setNextFrameStart n).events = s.events := rfl

@[simp] theorem State.takeSnap_sync (s : State) (sb : SubBlock) (k : BitVec 2) : (s.takeSnap sb k).sync = s.sync := rfl
@[simp] theorem State.takeSnap_time (s : State) (sb : SubBlock) (k : BitVec 2) : (s.takeSnap sb k).time = s.time := rfl
@[simp] theorem State.takeSnap_cell (s : State) (sb : SubBlock) (k : BitVec 2) : (s.takeSnap sb k).cell = s.cell := rfl
@[simp] theorem State.takeSnap_cs (s : State) (sb : SubBlock) (k : BitVec 2) : (s.takeSnap sb k).cs = s.cs := rfl
@[simp] theorem State.takeSnap_mac (s : State) (sb : SubBlock) (k : BitVec 2) : (s.takeSnap sb k).mac = s.mac := rfl
@[simp] theorem State.takeSnap_frag (s : State) (sb : SubBlock) (k : BitVec 2) : (s.takeSnap sb k).frag = s.frag := rfl
@[simp] theorem State.takeSnap_db (s : State) (sb : SubBlock) (k : BitVec 2) : (s.takeSnap sb k).db = s.db := rfl
@[simp] theorem State.takeSnap_port (s : State) (sb : SubBlock) (k : BitVec 2) : (s.takeSnap sb k).port = s.port := rfl
@[simp] theorem State.takeSnap_events (s : State) (sb : SubBlock) (k : BitVec 2) : (s.takeSnap sb k).events = s.events := rfl

@[simp] theorem State.loadPdu_sync (s : State) (v : Bits) : (s.loadPdu v).sync = s.sync := rfl
@[simp] theorem State.loadPdu_time (s : State) (v : Bits) : (s.loadPdu v).time = s.time := rfl
@[simp] theorem State.loadPdu_cell (s : State) (v : Bits) : (s.loadPdu v).cell = s.cell := rfl
@[simp] theorem State.loadPdu_cs (s : State) (v : Bits) : (s.loadPdu v).cs = s.cs := rfl
@[simp] theorem State.loadPdu_mac (s : State) (v : Bits) : (s.loadPdu v).mac = s.mac := rfl
@[simp] theorem State.loadPdu_frag (s : State) (v : Bits) : (s.loadPdu v).frag = s.frag := rfl
@[simp] theorem State.loadPdu_db (s : State) (v : Bits) : (s.loadPdu v).db = s.db := rfl
@[simp] theorem State.loadPdu_port (s : State) (v : Bits) : (s.loadPdu v).port = s.port := rfl
@[simp] theorem State.loadPdu_events (s : State) (v : Bits) : (s.loadPdu v).events = s.events := rfl

@[simp] theorem State.setPduBits_sync (s : State) (v : Bits) : (s.setPduBits v).sync = s.sync := rfl
@[simp] theorem State.setPduBits_time (s : State) (v : Bits) : (s.setPduBits v).time = s.time := rfl
@[simp] theorem State.setPduBits_cell (s : State) (v : Bits) : (s.setPduBits v).cell = s.cell := rfl
@[simp] theorem State.setPduBits_cs (s : State) (v : Bits) : (s.setPduBits v).cs = s.cs := rfl
@[simp] theorem State.setPduBits_mac (s : State) (v : Bits) : (s.setPduBits v).mac = s.mac := rfl
@[simp] theorem State.setPduBits_frag (s : State) (v : Bits) : (s.setPduBits v).frag = s.frag := rfl
@[simp] theorem State.setPduBits_db (s : State) (v : Bits) : (s.setPduBits v).db = s.db := rfl
@[simp] theorem State.setPduBits_port (s : State) (v : Bits) : (s.setPduBits v).port = s.port := rfl
@[simp] theorem State.setPduBits_events (s : State) (v : Bits) : (s.setPduBits v).events = s.events := rfl

@[simp] theorem State.setL1_sync (s : State) (p : Nat) : (s.setL1 p).sync = s.sync := rfl
@[simp] theorem State.setL1_time (s : State) (p : Nat) : (s.setL1 p).time = s.time := rfl
@[simp] theorem State.setL1_cell (s : State) (p : Nat) : (s.setL1 p).cell = s.cell := rfl
@[simp] theorem State.setL1_cs (s : State) (p : Nat) : (s.setL1 p).cs = s.cs := rfl
@[simp] theorem State.setL1_mac (s : State) (p : Nat) : (s.setL1 p).mac = s.mac := rfl
@[simp] theorem State.setL1_frag (s : State) (p : Nat) : (s.setL1 p).frag = s.frag := rfl
@[simp] theorem State.setL1_db (s : State) (p : Nat) : (s.setL1 p).db = s.db := rfl
@[simp] theorem State.setL1_port (s : State) (p : Nat) : (s.setL1 p).port = s.port := rfl
@[simp] theorem State.setL1_events (s : State) (p : Nat) : (s.setL1 p).events = s.events := rfl

@[simp] theorem State.setL2_sync (s : State) (p : Nat) : (s.setL2 p).sync = s.sync := rfl
@[simp] theorem State.setL2_time (s : State) (p : Nat) : (s.setL2 p).time = s.time := rfl
@[simp] theorem State.setL2_cell (s : State) (p : Nat) : (s.setL2 p).cell = s.cell := rfl
@[simp] theorem State.setL2_cs (s : State) (p : Nat) : (s.setL2 p).cs = s.cs := rfl
@[simp] theorem State.setL2_mac (s : State) (p : Nat) : (s.setL2 p).mac = s.mac := rfl
@[simp] theorem State.setL2_frag (s : State) (p : Nat) : (s.setL2 p).frag = s.frag := rfl
@[simp] theorem State.setL2_db (s : State) (p : Nat) : (s.setL2 p).db = s.db := rfl
@[simp] theorem State.setL2_port (s : State) (p : Nat) : (s.setL2 p).port = s.port := rfl
@[simp] theorem State.setL2_events (s : State) (p : Nat) : (s.setL2 p).events = s.events := rfl

@[simp] theorem State.dropPdu_sync (s : State) : (s.dropPdu).sync = s.sync := rfl
@[simp] theorem State.dropPdu_time (s : State) : (s.dropPdu).time = s.time := rfl
@[simp] theorem State.dropPdu_cell (s : State) : (s.dropPdu).cell = s.cell := rfl
@[simp] theorem State.dropPdu_cs (s : State) : (s.dropPdu).cs = s.cs := rfl
@[simp] theorem State.dropPdu_mac (s : State) : (s.dropPdu).mac = s.mac := rfl
@[simp] theorem State.dropPdu_frag (s : State) : (s.dropPdu).frag = s.frag := rfl
@[simp] theorem State.dropPdu_db (s : State) : (s.dropPdu).db = s.db := rfl
@[simp] theorem State.dropPdu_port (s : State) : (s.dropPdu).port = s.port := rfl
@[simp] theorem State.dropPdu_events (s : State) : (s.dropPdu).events = s.events := rfl

@[simp] theorem State.endCommand_sync (s : State) : (s.endCommand).sync = s.sync := rfl
@[simp] theorem State.endCommand_time (s : State) : (s.endCommand).time = s.time := rfl
@[simp] theorem State.endCommand_cell (s : State) : (s.endCommand).cell = s.cell := rfl
@[simp] theorem State.endCommand_cs (s : State) : (s.endCommand).cs = s.cs := rfl
@[simp] theorem State.endCommand_mac (s : State) : (s.endCommand).mac = s.mac := rfl
@[simp] theorem State.endCommand_frag (s : State) : (s.endCommand).frag = s.frag := rfl
@[simp] theorem State.endCommand_db (s : State) : (s.endCommand).db = s.db := rfl
@[simp] theorem State.endCommand_port (s : State) : (s.endCommand).port = s.port := rfl
@[simp] theorem State.endCommand_events (s : State) : (s.endCommand).events = s.events := rfl

@[simp] theorem State.setLfsr_sync (s : State) (l : BitVec 32) : (s.setLfsr l).sync = s.sync := rfl
@[simp] theorem State.setLfsr_time (s : State) (l : BitVec 32) : (s.setLfsr l).time = s.time := rfl
@[simp] theorem State.setLfsr_cell (s : State) (l : BitVec 32) : (s.setLfsr l).cell = s.cell := rfl
@[simp] theorem State.setLfsr_cs (s : State) (l : BitVec 32) : (s.setLfsr l).cs = s.cs := rfl
@[simp] theorem State.setLfsr_mac (s : State) (l : BitVec 32) : (s.setLfsr l).mac = s.mac := rfl
@[simp] theorem State.setLfsr_frag (s : State) (l : BitVec 32) : (s.setLfsr l).frag = s.frag := rfl
@[simp] theorem State.setLfsr_db (s : State) (l : BitVec 32) : (s.setLfsr l).db = s.db := rfl
@[simp] theorem State.setLfsr_port (s : State) (l : BitVec 32) : (s.setLfsr l).port = s.port := rfl
@[simp] theorem State.setLfsr_events (s : State) (l : BitVec 32) : (s.setLfsr l).events = s.events := rfl

@[simp] theorem State.setCrc_sync (s : State) (c : BitVec 16) : (s.setCrc c).sync = s.sync := rfl
@[simp] theorem State.setCrc_time (s : State) (c : BitVec 16) : (s.setCrc c).time = s.time := rfl
@[simp] theorem State.setCrc_cell (s : State) (c : BitVec 16) : (s.setCrc c).cell = s.cell := rfl
@[simp] theorem State.setCrc_cs (s : State) (c : BitVec 16) : (s.setCrc c).cs = s.cs := rfl
@[simp] theorem State.setCrc_mac (s : State) (c : BitVec 16) : (s.setCrc c).mac = s.mac := rfl
@[simp] theorem State.setCrc_frag (s : State) (c : BitVec 16) : (s.setCrc c).frag = s.frag := rfl
@[simp] theorem State.setCrc_db (s : State) (c : BitVec 16) : (s.setCrc c).db = s.db := rfl
@[simp] theorem State.setCrc_port (s : State) (c : BitVec 16) : (s.setCrc c).port = s.port := rfl
@[simp] theorem State.setCrc_events (s : State) (c : BitVec 16) : (s.setCrc c).events = s.events := rfl

@[simp] theorem State.setTrellis_sync (s : State) (pm : List (Option Int)) (sv : List (List Bool)) : (s.setTrellis pm sv).sync = s.sync := rfl
@[simp] theorem State.setTrellis_time (s : State) (pm : List (Option Int)) (sv : List (List Bool)) : (s.setTrellis pm sv).time = s.time := rfl
@[simp] theorem State.setTrellis_cell (s : State) (pm : List (Option Int)) (sv : List (List Bool)) : (s.setTrellis pm sv).cell = s.cell := rfl
@[simp] theorem State.setTrellis_cs (s : State) (pm : List (Option Int)) (sv : List (List Bool)) : (s.setTrellis pm sv).cs = s.cs := rfl
@[simp] theorem State.setTrellis_mac (s : State) (pm : List (Option Int)) (sv : List (List Bool)) : (s.setTrellis pm sv).mac = s.mac := rfl
@[simp] theorem State.setTrellis_frag (s : State) (pm : List (Option Int)) (sv : List (List Bool)) : (s.setTrellis pm sv).frag = s.frag := rfl
@[simp] theorem State.setTrellis_db (s : State) (pm : List (Option Int)) (sv : List (List Bool)) : (s.setTrellis pm sv).db = s.db := rfl
@[simp] theorem State.setTrellis_port (s : State) (pm : List (Option Int)) (sv : List (List Bool)) : (s.setTrellis pm sv).port = s.port := rfl
@[simp] theorem State.setTrellis_events (s : State) (pm : List (Option Int)) (sv : List (List Bool)) : (s.setTrellis pm sv).events = s.events := rfl

@[simp] theorem State.setKs_sync (s : State) (k : Bits) : (s.setKs k).sync = s.sync := rfl
@[simp] theorem State.setKs_time (s : State) (k : Bits) : (s.setKs k).time = s.time := rfl
@[simp] theorem State.setKs_cell (s : State) (k : Bits) : (s.setKs k).cell = s.cell := rfl
@[simp] theorem State.setKs_cs (s : State) (k : Bits) : (s.setKs k).cs = s.cs := rfl
@[simp] theorem State.setKs_mac (s : State) (k : Bits) : (s.setKs k).mac = s.mac := rfl
@[simp] theorem State.setKs_frag (s : State) (k : Bits) : (s.setKs k).frag = s.frag := rfl
@[simp] theorem State.setKs_db (s : State) (k : Bits) : (s.setKs k).db = s.db := rfl
@[simp] theorem State.setKs_port (s : State) (k : Bits) : (s.setKs k).port = s.port := rfl
@[simp] theorem State.setKs_events (s : State) (k : Bits) : (s.setKs k).events = s.events := rfl

@[simp] theorem State.setCrcOk_sync (s : State) (b : Bool) : (s.setCrcOk b).sync = s.sync := rfl
@[simp] theorem State.setCrcOk_time (s : State) (b : Bool) : (s.setCrcOk b).time = s.time := rfl
@[simp] theorem State.setCrcOk_cell (s : State) (b : Bool) : (s.setCrcOk b).cell = s.cell := rfl
@[simp] theorem State.setCrcOk_cs (s : State) (b : Bool) : (s.setCrcOk b).cs = s.cs := rfl
@[simp] theorem State.setCrcOk_mac (s : State) (b : Bool) : (s.setCrcOk b).mac = s.mac := rfl
@[simp] theorem State.setCrcOk_frag (s : State) (b : Bool) : (s.setCrcOk b).frag = s.frag := rfl
@[simp] theorem State.setCrcOk_db (s : State) (b : Bool) : (s.setCrcOk b).db = s.db := rfl
@[simp] theorem State.setCrcOk_port (s : State) (b : Bool) : (s.setCrcOk b).port = s.port := rfl
@[simp] theorem State.setCrcOk_events (s : State) (b : Bool) : (s.setCrcOk b).events = s.events := rfl

@[simp] theorem State.setKsgInputs_sync (s : State) (iv : BitVec 32) (k : BitVec 80) : (s.setKsgInputs iv k).sync = s.sync := rfl
@[simp] theorem State.setKsgInputs_time (s : State) (iv : BitVec 32) (k : BitVec 80) : (s.setKsgInputs iv k).time = s.time := rfl
@[simp] theorem State.setKsgInputs_cell (s : State) (iv : BitVec 32) (k : BitVec 80) : (s.setKsgInputs iv k).cell = s.cell := rfl
@[simp] theorem State.setKsgInputs_cs (s : State) (iv : BitVec 32) (k : BitVec 80) : (s.setKsgInputs iv k).cs = s.cs := rfl
@[simp] theorem State.setKsgInputs_mac (s : State) (iv : BitVec 32) (k : BitVec 80) : (s.setKsgInputs iv k).mac = s.mac := rfl
@[simp] theorem State.setKsgInputs_frag (s : State) (iv : BitVec 32) (k : BitVec 80) : (s.setKsgInputs iv k).frag = s.frag := rfl
@[simp] theorem State.setKsgInputs_db (s : State) (iv : BitVec 32) (k : BitVec 80) : (s.setKsgInputs iv k).db = s.db := rfl
@[simp] theorem State.setKsgInputs_port (s : State) (iv : BitVec 32) (k : BitVec 80) : (s.setKsgInputs iv k).port = s.port := rfl
@[simp] theorem State.setKsgInputs_events (s : State) (iv : BitVec 32) (k : BitVec 80) : (s.setKsgInputs iv k).events = s.events := rfl

@[simp] theorem State.consume_sync (s : State) (c : Consumed) : (s.consume c).sync = s.sync := rfl
@[simp] theorem State.consume_time (s : State) (c : Consumed) : (s.consume c).time = s.time := rfl
@[simp] theorem State.consume_cell (s : State) (c : Consumed) : (s.consume c).cell = s.cell := rfl
@[simp] theorem State.consume_cs (s : State) (c : Consumed) : (s.consume c).cs = s.cs := rfl
@[simp] theorem State.consume_mac (s : State) (c : Consumed) : (s.consume c).mac = s.mac := rfl
@[simp] theorem State.consume_frag (s : State) (c : Consumed) : (s.consume c).frag = s.frag := rfl
@[simp] theorem State.consume_db (s : State) (c : Consumed) : (s.consume c).db = s.db := rfl
@[simp] theorem State.consume_port (s : State) (c : Consumed) : (s.consume c).port = s.port := rfl
@[simp] theorem State.consume_events (s : State) (c : Consumed) : (s.consume c).events = s.events := rfl

@[simp] theorem State.setFrag_sync (s : State) (tn : BitVec 3) (x : FragSlot) : (s.setFrag tn x).sync = s.sync := rfl
@[simp] theorem State.setFrag_time (s : State) (tn : BitVec 3) (x : FragSlot) : (s.setFrag tn x).time = s.time := rfl
@[simp] theorem State.setFrag_work (s : State) (tn : BitVec 3) (x : FragSlot) : (s.setFrag tn x).work = s.work := rfl
@[simp] theorem State.setFrag_cell (s : State) (tn : BitVec 3) (x : FragSlot) : (s.setFrag tn x).cell = s.cell := rfl
@[simp] theorem State.setFrag_cs (s : State) (tn : BitVec 3) (x : FragSlot) : (s.setFrag tn x).cs = s.cs := rfl
@[simp] theorem State.setFrag_mac (s : State) (tn : BitVec 3) (x : FragSlot) : (s.setFrag tn x).mac = s.mac := rfl
@[simp] theorem State.setFrag_db (s : State) (tn : BitVec 3) (x : FragSlot) : (s.setFrag tn x).db = s.db := rfl
@[simp] theorem State.setFrag_port (s : State) (tn : BitVec 3) (x : FragSlot) : (s.setFrag tn x).port = s.port := rfl
@[simp] theorem State.setFrag_events (s : State) (tn : BitVec 3) (x : FragSlot) : (s.setFrag tn x).events = s.events := rfl

@[simp] theorem State.appendNet_sync (s : State) (e : NetEntry) : (s.appendNet e).sync = s.sync := rfl
@[simp] theorem State.appendNet_time (s : State) (e : NetEntry) : (s.appendNet e).time = s.time := rfl
@[simp] theorem State.appendNet_work (s : State) (e : NetEntry) : (s.appendNet e).work = s.work := rfl
@[simp] theorem State.appendNet_cell (s : State) (e : NetEntry) : (s.appendNet e).cell = s.cell := rfl
@[simp] theorem State.appendNet_cs (s : State) (e : NetEntry) : (s.appendNet e).cs = s.cs := rfl
@[simp] theorem State.appendNet_mac (s : State) (e : NetEntry) : (s.appendNet e).mac = s.mac := rfl
@[simp] theorem State.appendNet_frag (s : State) (e : NetEntry) : (s.appendNet e).frag = s.frag := rfl
@[simp] theorem State.appendNet_port (s : State) (e : NetEntry) : (s.appendNet e).port = s.port := rfl
@[simp] theorem State.appendNet_events (s : State) (e : NetEntry) : (s.appendNet e).events = s.events := rfl

@[simp] theorem State.appendKey_sync (s : State) (e : KeyEntry) : (s.appendKey e).sync = s.sync := rfl
@[simp] theorem State.appendKey_time (s : State) (e : KeyEntry) : (s.appendKey e).time = s.time := rfl
@[simp] theorem State.appendKey_work (s : State) (e : KeyEntry) : (s.appendKey e).work = s.work := rfl
@[simp] theorem State.appendKey_cell (s : State) (e : KeyEntry) : (s.appendKey e).cell = s.cell := rfl
@[simp] theorem State.appendKey_cs (s : State) (e : KeyEntry) : (s.appendKey e).cs = s.cs := rfl
@[simp] theorem State.appendKey_mac (s : State) (e : KeyEntry) : (s.appendKey e).mac = s.mac := rfl
@[simp] theorem State.appendKey_frag (s : State) (e : KeyEntry) : (s.appendKey e).frag = s.frag := rfl
@[simp] theorem State.appendKey_port (s : State) (e : KeyEntry) : (s.appendKey e).port = s.port := rfl
@[simp] theorem State.appendKey_events (s : State) (e : KeyEntry) : (s.appendKey e).events = s.events := rfl

@[simp] theorem State.lockDb_sync (s : State) : (s.lockDb).sync = s.sync := rfl
@[simp] theorem State.lockDb_time (s : State) : (s.lockDb).time = s.time := rfl
@[simp] theorem State.lockDb_work (s : State) : (s.lockDb).work = s.work := rfl
@[simp] theorem State.lockDb_cell (s : State) : (s.lockDb).cell = s.cell := rfl
@[simp] theorem State.lockDb_cs (s : State) : (s.lockDb).cs = s.cs := rfl
@[simp] theorem State.lockDb_mac (s : State) : (s.lockDb).mac = s.mac := rfl
@[simp] theorem State.lockDb_frag (s : State) : (s.lockDb).frag = s.frag := rfl
@[simp] theorem State.lockDb_port (s : State) : (s.lockDb).port = s.port := rfl
@[simp] theorem State.lockDb_events (s : State) : (s.lockDb).events = s.events := rfl

@[simp] theorem State.setSysinfo_sync (s : State) (f : Sysinfo) : (s.setSysinfo f).sync = s.sync := rfl
@[simp] theorem State.setSysinfo_time (s : State) (f : Sysinfo) : (s.setSysinfo f).time = s.time := rfl
@[simp] theorem State.setSysinfo_work (s : State) (f : Sysinfo) : (s.setSysinfo f).work = s.work := rfl
@[simp] theorem State.setSysinfo_cell (s : State) (f : Sysinfo) : (s.setSysinfo f).cell = s.cell := rfl
@[simp] theorem State.setSysinfo_cs (s : State) (f : Sysinfo) : (s.setSysinfo f).cs = s.cs := rfl
@[simp] theorem State.setSysinfo_frag (s : State) (f : Sysinfo) : (s.setSysinfo f).frag = s.frag := rfl
@[simp] theorem State.setSysinfo_db (s : State) (f : Sysinfo) : (s.setSysinfo f).db = s.db := rfl
@[simp] theorem State.setSysinfo_port (s : State) (f : Sysinfo) : (s.setSysinfo f).port = s.port := rfl
@[simp] theorem State.setSysinfo_events (s : State) (f : Sysinfo) : (s.setSysinfo f).events = s.events := rfl

@[simp] theorem State.setAddr_sync (s : State) (a : Addr) : (s.setAddr a).sync = s.sync := rfl
@[simp] theorem State.setAddr_time (s : State) (a : Addr) : (s.setAddr a).time = s.time := rfl
@[simp] theorem State.setAddr_work (s : State) (a : Addr) : (s.setAddr a).work = s.work := rfl
@[simp] theorem State.setAddr_cell (s : State) (a : Addr) : (s.setAddr a).cell = s.cell := rfl
@[simp] theorem State.setAddr_cs (s : State) (a : Addr) : (s.setAddr a).cs = s.cs := rfl
@[simp] theorem State.setAddr_frag (s : State) (a : Addr) : (s.setAddr a).frag = s.frag := rfl
@[simp] theorem State.setAddr_db (s : State) (a : Addr) : (s.setAddr a).db = s.db := rfl
@[simp] theorem State.setAddr_port (s : State) (a : Addr) : (s.setAddr a).port = s.port := rfl
@[simp] theorem State.setAddr_events (s : State) (a : Addr) : (s.setAddr a).events = s.events := rfl

@[simp] theorem State.clearStolen_sync (s : State) : (s.clearStolen).sync = s.sync := rfl
@[simp] theorem State.clearStolen_time (s : State) : (s.clearStolen).time = s.time := rfl
@[simp] theorem State.clearStolen_work (s : State) : (s.clearStolen).work = s.work := rfl
@[simp] theorem State.clearStolen_cell (s : State) : (s.clearStolen).cell = s.cell := rfl
@[simp] theorem State.clearStolen_cs (s : State) : (s.clearStolen).cs = s.cs := rfl
@[simp] theorem State.clearStolen_frag (s : State) : (s.clearStolen).frag = s.frag := rfl
@[simp] theorem State.clearStolen_db (s : State) : (s.clearStolen).db = s.db := rfl
@[simp] theorem State.clearStolen_port (s : State) : (s.clearStolen).port = s.port := rfl
@[simp] theorem State.clearStolen_events (s : State) : (s.clearStolen).events = s.events := rfl

@[simp] theorem State.setBlk1Stolen_sync (s : State) : (s.setBlk1Stolen).sync = s.sync := rfl
@[simp] theorem State.setBlk1Stolen_time (s : State) : (s.setBlk1Stolen).time = s.time := rfl
@[simp] theorem State.setBlk1Stolen_work (s : State) : (s.setBlk1Stolen).work = s.work := rfl
@[simp] theorem State.setBlk1Stolen_cell (s : State) : (s.setBlk1Stolen).cell = s.cell := rfl
@[simp] theorem State.setBlk1Stolen_cs (s : State) : (s.setBlk1Stolen).cs = s.cs := rfl
@[simp] theorem State.setBlk1Stolen_frag (s : State) : (s.setBlk1Stolen).frag = s.frag := rfl
@[simp] theorem State.setBlk1Stolen_db (s : State) : (s.setBlk1Stolen).db = s.db := rfl
@[simp] theorem State.setBlk1Stolen_port (s : State) : (s.setBlk1Stolen).port = s.port := rfl
@[simp] theorem State.setBlk1Stolen_events (s : State) : (s.setBlk1Stolen).events = s.events := rfl

@[simp] theorem State.setBlk2Stolen_sync (s : State) : (s.setBlk2Stolen).sync = s.sync := rfl
@[simp] theorem State.setBlk2Stolen_time (s : State) : (s.setBlk2Stolen).time = s.time := rfl
@[simp] theorem State.setBlk2Stolen_work (s : State) : (s.setBlk2Stolen).work = s.work := rfl
@[simp] theorem State.setBlk2Stolen_cell (s : State) : (s.setBlk2Stolen).cell = s.cell := rfl
@[simp] theorem State.setBlk2Stolen_cs (s : State) : (s.setBlk2Stolen).cs = s.cs := rfl
@[simp] theorem State.setBlk2Stolen_frag (s : State) : (s.setBlk2Stolen).frag = s.frag := rfl
@[simp] theorem State.setBlk2Stolen_db (s : State) : (s.setBlk2Stolen).db = s.db := rfl
@[simp] theorem State.setBlk2Stolen_port (s : State) : (s.setBlk2Stolen).port = s.port := rfl
@[simp] theorem State.setBlk2Stolen_events (s : State) : (s.setBlk2Stolen).events = s.events := rfl

@[simp] theorem State.setLastCrcFail_sync (s : State) (ok : Bool) : (s.setLastCrcFail ok).sync = s.sync := rfl
@[simp] theorem State.setLastCrcFail_time (s : State) (ok : Bool) : (s.setLastCrcFail ok).time = s.time := rfl
@[simp] theorem State.setLastCrcFail_work (s : State) (ok : Bool) : (s.setLastCrcFail ok).work = s.work := rfl
@[simp] theorem State.setLastCrcFail_cell (s : State) (ok : Bool) : (s.setLastCrcFail ok).cell = s.cell := rfl
@[simp] theorem State.setLastCrcFail_cs (s : State) (ok : Bool) : (s.setLastCrcFail ok).cs = s.cs := rfl
@[simp] theorem State.setLastCrcFail_frag (s : State) (ok : Bool) : (s.setLastCrcFail ok).frag = s.frag := rfl
@[simp] theorem State.setLastCrcFail_db (s : State) (ok : Bool) : (s.setLastCrcFail ok).db = s.db := rfl
@[simp] theorem State.setLastCrcFail_port (s : State) (ok : Bool) : (s.setLastCrcFail ok).port = s.port := rfl
@[simp] theorem State.setLastCrcFail_events (s : State) (ok : Bool) : (s.setLastCrcFail ok).events = s.events := rfl

@[simp] theorem State.aachDecode_sync (s : State) (v : Bits) : (s.aachDecode v).sync = s.sync := rfl
@[simp] theorem State.aachDecode_time (s : State) (v : Bits) : (s.aachDecode v).time = s.time := rfl
@[simp] theorem State.aachDecode_work (s : State) (v : Bits) : (s.aachDecode v).work = s.work := rfl
@[simp] theorem State.aachDecode_cell (s : State) (v : Bits) : (s.aachDecode v).cell = s.cell := rfl
@[simp] theorem State.aachDecode_cs (s : State) (v : Bits) : (s.aachDecode v).cs = s.cs := rfl
@[simp] theorem State.aachDecode_frag (s : State) (v : Bits) : (s.aachDecode v).frag = s.frag := rfl
@[simp] theorem State.aachDecode_db (s : State) (v : Bits) : (s.aachDecode v).db = s.db := rfl
@[simp] theorem State.aachDecode_port (s : State) (v : Bits) : (s.aachDecode v).port = s.port := rfl
@[simp] theorem State.aachDecode_events (s : State) (v : Bits) : (s.aachDecode v).events = s.events := rfl

/-! The named operations: what they write. -/

@[simp] theorem State.emit_events (s : State) (e : Event) : (s.emit e).events = s.events ++ [e] := rfl
@[simp] theorem State.raise_events (s : State) (c : Cause) (i : BitVec 32) :
    (s.raise c i).events = s.events ++ [.diag c i] := rfl
@[simp] theorem State.raiseNat_events (s : State) (c : Cause) (n : Nat) :
    (s.raiseNat c n).events = s.events ++ [.diag c (BitVec.ofNat 32 n)] := rfl
@[simp] theorem State.bitbufAppend_sync (s : State) (b : Bool) :
    (s.bitbufAppend b).sync = { s.sync with bitbuf := s.sync.bitbuf ++ [b] } := rfl
@[simp] theorem State.bitbufDiscard_sync (s : State) (d : Nat) :
    (s.bitbufDiscard d).sync =
      { s.sync with bitbuf := s.sync.bitbuf.drop d, startBitnum := s.sync.startBitnum + d } := rfl
@[simp] theorem State.setSyncState_sync (s : State) (x : SyncState) :
    (s.setSyncState x).sync = { s.sync with state := x } := rfl
@[simp] theorem State.setNextFrameStart_sync (s : State) (n : Nat) :
    (s.setNextFrameStart n).sync = { s.sync with nextFrameStart := n } := rfl
@[simp] theorem State.takeSnap_work (s : State) (sb : SubBlock) (k : BitVec 2) :
    (s.takeSnap sb k).work = { s.work with snap := { time := s.time, blkNum := k, subblock := sb } } := rfl
@[simp] theorem State.loadPdu_work (s : State) (v : Bits) :
    (s.loadPdu v).work = { s.work with pdu := { Pdu.empty with bits := v } } := rfl
@[simp] theorem State.setPduBits_work (s : State) (v : Bits) :
    (s.setPduBits v).work = { s.work with pdu := { s.work.pdu with bits := v } } := rfl
@[simp] theorem State.setL1_work (s : State) (p : Nat) :
    (s.setL1 p).work = { s.work with pdu := { s.work.pdu with l1 := some p } } := rfl
@[simp] theorem State.setL2_work (s : State) (p : Nat) :
    (s.setL2 p).work = { s.work with pdu := { s.work.pdu with l2 := some p } } := rfl
@[simp] theorem State.dropPdu_work (s : State) : s.dropPdu.work = { s.work with pdu := Pdu.empty } := rfl
@[simp] theorem State.endCommand_work (s : State) : s.endCommand.work = Work.idle := rfl
@[simp] theorem State.setLfsr_work (s : State) (l : BitVec 32) : (s.setLfsr l).work = { s.work with lfsr := l } := rfl
@[simp] theorem State.setCrc_work (s : State) (c : BitVec 16) : (s.setCrc c).work = { s.work with crc := c } := rfl
@[simp] theorem State.setTrellis_work (s : State) (pm : List (Option Int)) (sv : List (List Bool)) :
    (s.setTrellis pm sv).work = { s.work with pm := pm, surv := sv } := rfl
@[simp] theorem State.setKs_work (s : State) (k : Bits) : (s.setKs k).work = { s.work with ks := k } := rfl
@[simp] theorem State.setCrcOk_work (s : State) (b : Bool) : (s.setCrcOk b).work = { s.work with crcOk := b } := rfl
@[simp] theorem State.setKsgInputs_work (s : State) (iv : BitVec 32) (k : BitVec 80) :
    (s.setKsgInputs iv k).work = { s.work with iv := iv, eck := k } := rfl
@[simp] theorem State.consume_work (s : State) (c : Consumed) :
    (s.consume c).work = { s.work with consumed := c } := rfl
@[simp] theorem State.setFrag_frag (s : State) (tn : BitVec 3) (x : FragSlot) :
    (s.setFrag tn x).frag = s.frag.set tn x := rfl
@[simp] theorem State.appendNet_db (s : State) (e : NetEntry) :
    (s.appendNet e).db = { s.db with nets := s.db.nets ++ [e] } := rfl
@[simp] theorem State.appendKey_db (s : State) (e : KeyEntry) :
    (s.appendKey e).db = { s.db with keys := s.db.keys ++ [{ e with index := s.db.keys.length }] } := rfl
@[simp] theorem State.lockDb_db (s : State) : s.lockDb.db = { s.db with locked := true } := rfl
@[simp] theorem State.setSysinfo_mac (s : State) (f : Sysinfo) :
    (s.setSysinfo f).mac = { s.mac with sysinfo := some f } := rfl
@[simp] theorem State.setAddr_mac (s : State) (a : Addr) : (s.setAddr a).mac = { s.mac with addr := some a } := rfl
@[simp] theorem State.clearStolen_mac (s : State) :
    s.clearStolen.mac = { s.mac with blk1Stolen := false, blk2Stolen := false } := rfl
@[simp] theorem State.setBlk1Stolen_mac (s : State) : s.setBlk1Stolen.mac = { s.mac with blk1Stolen := true } := rfl
@[simp] theorem State.setBlk2Stolen_mac (s : State) : s.setBlk2Stolen.mac = { s.mac with blk2Stolen := true } := rfl
@[simp] theorem State.setLastCrcFail_mac (s : State) (ok : Bool) :
    (s.setLastCrcFail ok).mac = { s.mac with lastCrcFail := !ok } := rfl
@[simp] theorem State.aachDecode_mac (s : State) (v : Bits) :
    (s.aachDecode v).mac = { s.mac with isTraffic := usageMarker s.work.snap.time.fn v } := rfl
/-- A state is its ten fields. -/
theorem State.ext_fields {s t : State} (h1 : s.sync = t.sync) (h2 : s.time = t.time) (h3 : s.work = t.work)
    (h4 : s.cell = t.cell) (h5 : s.cs = t.cs) (h6 : s.mac = t.mac) (h7 : s.frag = t.frag) (h8 : s.db = t.db)
    (h9 : s.port = t.port) (h10 : s.events = t.events) : s = t := by
  cases s; cases t; simp_all

end Sys2Proof.Machine
end

