-- ==== Sys2Proof/Laws/Frames.lean ====
section
/-! SUPPORT. What every operation of the pipeline preserves, once per operation: the synchronizer registers, the command
port and the key database stay as they are, events only grow, and the invariants of Safety.lean hold on. -/

namespace Sys2Proof.Machine

/-! Fragment slots. -/

theorem FragSlot.reset_ok : FragSlot.reset.Ok := by
  constructor
  · intro _; rfl
  · intro h; simp [FragSlot.reset] at h

theorem FragFile.get_ok {f : FragFile} (h : f.Ok) (tn : BitVec 3) : (f.get tn).Ok := by
  unfold FragFile.get
  split
  · exact h.1
  · split
    · exact h.2.1
    · split
      · exact h.2.2.1
      · split
        · exact h.2.2.2
        · exact FragSlot.reset_ok

theorem FragFile.set_ok {f : FragFile} (h : f.Ok) (tn : BitVec 3) {x : FragSlot} (hx : x.Ok) : (f.set tn x).Ok := by
  unfold FragFile.set
  split
  · exact ⟨hx, h.2.1, h.2.2.1, h.2.2.2⟩
  · split
    · exact ⟨h.1, hx, h.2.2.1, h.2.2.2⟩
    · split
      · exact ⟨h.1, h.2.1, hx, h.2.2.2⟩
      · split
        · exact ⟨h.1, h.2.1, h.2.2.1, hx⟩
        · exact h

/-- Every slot of the file is in canonical form (20_memory R60). -/
def FragFile.Wf (f : FragFile) : Prop := f.f1.wf ∧ f.f2.wf ∧ f.f3.wf ∧ f.f4.wf

/-- An empty buffer fits any capacity (45_upper_mac R251). -/
theorem fitsFragBuf_zero : fitsFragBuf 0 = true := by
  unfold fitsFragBuf
  split <;> simp

theorem FragSlot.reset_wf : FragSlot.reset.wf :=
  ⟨fun _ => rfl, fun h => by simp [FragSlot.reset] at h, fitsFragBuf_zero⟩

theorem FragFile.get_wf {f : FragFile} (h : f.Wf) (tn : BitVec 3) : (f.get tn).wf := by
  unfold FragFile.get
  split
  · exact h.1
  · split
    · exact h.2.1
    · split
      · exact h.2.2.1
      · split
        · exact h.2.2.2
        · exact FragSlot.reset_wf

theorem FragFile.set_wf {f : FragFile} (h : f.Wf) (tn : BitVec 3) {x : FragSlot} (hx : x.wf) : (f.set tn x).Wf := by
  unfold FragFile.set
  split
  · exact ⟨hx, h.2.1, h.2.2.1, h.2.2.2⟩
  · split
    · exact ⟨h.1, hx, h.2.2.1, h.2.2.2⟩
    · split
      · exact ⟨h.1, h.2.1, hx, h.2.2.2⟩
      · split
        · exact ⟨h.1, h.2.1, h.2.2.1, hx⟩
        · exact h

/-- A slot just written is read back (10_state R46). -/
theorem FragFile.get_set_same {f : FragFile} {tn : BitVec 3} {x : FragSlot}
    (h : tn = 1 ∨ tn = 2 ∨ tn = 3 ∨ tn = 4) : (f.set tn x).get tn = x := by
  rcases h with rfl | rfl | rfl | rfl <;> rfl

/-- Writing one slot leaves every other slot alone (10_state R46). -/
theorem FragFile.get_set_other {f : FragFile} {tn u : BitVec 3} {x : FragSlot} (h : u ≠ tn) :
    (f.set tn x).get u = f.get u := by
  by_cases h1 : tn = 1
  · subst h1
    rw [show f.set 1 x = { f with f1 := x } from rfl]
    simp only [FragFile.get, if_neg h]
  · by_cases h2 : tn = 2
    · subst h2
      rw [show f.set 2 x = { f with f2 := x } from rfl]
      simp only [FragFile.get, if_neg h]
    · by_cases h3 : tn = 3
      · subst h3
        rw [show f.set 3 x = { f with f3 := x } from rfl]
        simp only [FragFile.get, if_neg h]
      · by_cases h4 : tn = 4
        · subst h4
          rw [show f.set 4 x = { f with f4 := x } from rfl]
          simp only [FragFile.get, if_neg h]
        · simp only [FragFile.set, if_neg h1, if_neg h2, if_neg h3, if_neg h4]

/-- Writing a slot twice keeps the second value. -/
theorem FragFile.set_set (f : FragFile) (tn : BitVec 3) (x y : FragSlot) : (f.set tn x).set tn y = f.set tn y := by
  by_cases h1 : tn = 1
  · subst h1; rfl
  · by_cases h2 : tn = 2
    · subst h2; rfl
    · by_cases h3 : tn = 3
      · subst h3; rfl
      · by_cases h4 : tn = 4
        · subst h4; rfl
        · simp only [FragFile.set, if_neg h1, if_neg h2, if_neg h3, if_neg h4]

/-! The relation. -/

/-- What every pipeline operation preserves from `s` to `t`. -/
structure State.Preserves (s t : State) : Prop where
  sync : t.sync = s.sync
  port : t.port = s.port
  db : t.db = s.db
  events : s.EventsGrow t
  time : s.time.inRange → t.time.inRange
  frag : s.frag.Ok → t.frag.Ok
  canonical : s.frag.Wf → t.frag.Wf
  cell : s.cell.Ok → t.cell.Ok
  valid : s.cell.valid = true → t.cell.valid = true
  cache : s.CacheOk → t.CacheOk

theorem State.EventsGrow.refl (s : State) : s.EventsGrow s := ⟨[], by simp⟩

theorem State.EventsGrow.trans {s t u : State} (h : s.EventsGrow t) (k : t.EventsGrow u) : s.EventsGrow u := by
  obtain ⟨a, ha⟩ := h
  obtain ⟨b, hb⟩ := k
  exact ⟨a ++ b, by rw [hb, ha, List.append_assoc]⟩

theorem State.Preserves.refl (s : State) : s.Preserves s :=
  ⟨rfl, rfl, rfl, .refl s, id, id, id, id, id, id⟩

theorem State.Preserves.trans {s t u : State} (h : s.Preserves t) (k : t.Preserves u) : s.Preserves u :=
  ⟨k.sync.trans h.sync, k.port.trans h.port, k.db.trans h.db, h.events.trans k.events, fun x => k.time (h.time x),
    fun x => k.frag (h.frag x), fun x => k.canonical (h.canonical x), fun x => k.cell (h.cell x), fun x => k.valid (h.valid x), fun x => k.cache (h.cache x)⟩

/-- An operation that writes working registers, MAC registers and events only. -/
theorem State.Preserves.of_work_mac {s t : State} (h1 : t.sync = s.sync) (h2 : t.port = s.port) (h3 : t.db = s.db)
    (h4 : s.EventsGrow t) (h5 : t.time = s.time) (h6 : t.frag = s.frag) (h7 : t.cell = s.cell) (h8 : t.cs = s.cs) :
    s.Preserves t :=
  ⟨h1, h2, h3, h4, by rw [h5]; exact id, by rw [h6]; exact id, by rw [h6]; exact id, by rw [h7]; exact id, by rw [h7]; exact id,
    by unfold State.CacheOk; rw [h8, h3]; exact id⟩

/-- An operation that changes only working registers. -/
theorem State.withWork_preserves (s : State) (w : Work) : s.Preserves (s.withWork w) :=
  .of_work_mac rfl rfl rfl (.refl _) rfl rfl rfl rfl

theorem State.withMac_preserves (s : State) (m : Mac) : s.Preserves (s.withMac m) :=
  .of_work_mac rfl rfl rfl (.refl _) rfl rfl rfl rfl

theorem State.emit_preserves (s : State) (e : Event) : s.Preserves (s.emit e) :=
  .of_work_mac rfl rfl rfl ⟨[e], rfl⟩ rfl rfl rfl rfl

theorem State.raise_preserves (s : State) (c : Cause) (i : BitVec 32) : s.Preserves (s.raise c i) :=
  s.emit_preserves _

theorem State.raiseNat_preserves (s : State) (c : Cause) (n : Nat) : s.Preserves (s.raiseNat c n) :=
  s.emit_preserves _

theorem State.consume_preserves (s : State) (c : Consumed) : s.Preserves (s.consume c) := s.withWork_preserves _

theorem State.withTime_preserves (s : State) {x : Time} (h : s.time.inRange → x.inRange) :
    s.Preserves (s.withTime x) :=
  ⟨rfl, rfl, rfl, .refl _, h, id, id, id, id, id⟩

theorem State.setFrag_preserves (s : State) (tn : BitVec 3) {x : FragSlot} (h : s.frag.Ok → x.Ok)
    (hw : s.frag.Wf → x.wf) : s.Preserves (s.setFrag tn x) :=
  ⟨rfl, rfl, rfl, .refl _, id, fun k => FragFile.set_ok k tn (h k), fun k => FragFile.set_wf k tn (hw k), id, id, id⟩

/-! Fragment operations (45_upper_mac R251 to R257). -/

theorem State.fragCleanup_preserves (s : State) (tn : BitVec 3) : s.Preserves (s.fragCleanup tn) :=
  s.setFrag_preserves tn (fun _ => FragSlot.reset_ok) fun _ => FragSlot.reset_wf

theorem State.fragDiscardStale_preserves (s : State) (tn : BitVec 3) : s.Preserves (s.fragDiscardStale tn) := by
  unfold State.fragDiscardStale
  split
  · exact (s.raise_preserves _ _).trans (State.fragCleanup_preserves _ _)
  · exact .refl s

theorem State.fragOpen_preserves (s : State) (tn : BitVec 3) (sdu : Bits) (enc : Bool) (key : Option Nat)
    (h : enc = true → key.isSome = true) : s.Preserves (s.fragOpen tn sdu enc key) := by
  unfold State.fragOpen
  dsimp only
  split
  · rename_i hf
    refine (s.fragDiscardStale_preserves tn).trans (State.setFrag_preserves _ tn (fun _ => ?_) fun _ => ?_)
    rotate_left
    · exact ⟨fun k => Bool.noConfusion k, fun _ => rfl, hf⟩
    exact ⟨fun k => Bool.noConfusion k, fun _ => ⟨Nat.le_refl 1, rfl, (by decide : 0 < Config.n203), h⟩⟩
  · exact (s.fragDiscardStale_preserves tn).trans (State.raise_preserves _ _ _)

theorem State.fragAppend_preserves (s : State) (tn : BitVec 3) (p : Bits) (ha : (s.fragAt tn).active = true) :
    s.Preserves (s.fragAppend tn p) := by
  unfold State.fragAppend
  dsimp only
  split
  · rename_i hfit
    refine State.setFrag_preserves _ tn (fun k => ?_) fun k => ?_
    rotate_left
    · have hw := (FragFile.get_wf k tn).2.1 ha
      refine ⟨fun c => absurd ha (by simpa using c), fun _ => ?_, ?_⟩
      · simp only [List.length_append]
        rw [show (s.fragAt tn).length = (s.fragAt tn).buf.length from hw]
      · simp only [List.length_append]
        rwa [show (s.fragAt tn).length = (s.fragAt tn).buf.length from hw] at hfit
    have hf := (FragFile.get_ok k tn).2 ha
    refine ⟨fun c => absurd ha (by simpa using c), fun _ => ⟨by simp, ?_, (by decide : 0 < Config.n203), hf.2.2.2⟩⟩
    simp only [List.length_append]
    rw [show (s.fragAt tn).length = (s.fragAt tn).buf.length from hf.2.1]
  · exact (s.raise_preserves _ _).trans (State.fragCleanup_preserves _ _)

theorem State.fragFinalize_preserves (s : State) (tn : BitVec 3) : s.Preserves (s.fragFinalize tn) := by
  unfold State.fragFinalize
  dsimp only
  split
  · exact (s.emit_preserves _).trans (State.fragCleanup_preserves _ _)
  · exact .refl s

theorem State.fragAge_preserves (s : State) (tn : BitVec 3) : s.Preserves (s.fragAge tn) := by
  unfold State.fragAge
  dsimp only
  split
  · rename_i ha
    split
    · exact (s.raise_preserves _ _).trans (State.fragCleanup_preserves _ _)
    · rename_i hn
      refine State.setFrag_preserves _ tn (fun k => ?_) fun k => ?_
      rotate_left
      · have hw := FragFile.get_wf k tn
        exact ⟨fun c => absurd ha (by simpa using c), hw.2.1, hw.2.2⟩
      have hf := (FragFile.get_ok k tn).2 ha
      exact ⟨fun c => absurd ha (by simpa using c), fun _ => ⟨hf.1, hf.2.1, Nat.lt_of_not_le hn, hf.2.2.2⟩⟩
  · exact .refl s

theorem State.fragAgeAll_preserves (s : State) : s.Preserves s.fragAgeAll :=
  (((s.fragAge_preserves 1).trans (State.fragAge_preserves _ 2)).trans (State.fragAge_preserves _ 3)).trans
    (State.fragAge_preserves _ 4)

/-! Crypto operations (44_crypto). -/

theorem State.updateCck_preserves (s : State) (h : s.cs.network = lookupNetwork s.db s.cs.mcc s.cs.mnc) :
    s.Preserves s.updateCck ∧ s.updateCck.CacheOk :=
  ⟨⟨rfl, rfl, rfl, .refl _, id, id, id, id, id, fun _ => ⟨h, rfl⟩⟩, h, rfl⟩

theorem State.cryptoOnSync_cache (s : State) (mcc : BitVec 10) (mnc : BitVec 14) (cc : BitVec 6) :
    (s.cryptoOnSync mcc mnc cc).CacheOk := ⟨rfl, rfl⟩

theorem State.cryptoOnSync_preserves (s : State) (mcc : BitVec 10) (mnc : BitVec 14) (cc : BitVec 6) :
    s.Preserves (s.cryptoOnSync mcc mnc cc) :=
  ⟨rfl, rfl, rfl, .refl _, id, id, id, id, id, fun _ => s.cryptoOnSync_cache mcc mnc cc⟩

theorem State.cryptoOnSysinfo_preserves (s : State) (f : Sysinfo) : s.Preserves (s.cryptoOnSysinfo f) := by
  unfold State.cryptoOnSysinfo
  split
  · exact ⟨rfl, rfl, rfl, .refl _, id, id, id, id, id, fun k => ⟨k.1, rfl⟩⟩
  · exact ⟨rfl, rfl, rfl, .refl _, id, id, id, id, id, fun k => ⟨k.1, rfl⟩⟩

/-- An operation that changes only working registers and adds events. -/
def State.WorkOnly (s t : State) : Prop := ∃ w ev, t = (s.withWork w).withEvents (s.events ++ ev)

theorem State.WorkOnly.refl (s : State) : s.WorkOnly s := ⟨s.work, [], by simp [State.withWork, State.withEvents]⟩

theorem State.WorkOnly.trans {s t u : State} (h : s.WorkOnly t) (k : t.WorkOnly u) : s.WorkOnly u := by
  obtain ⟨w, ev, rfl⟩ := h
  obtain ⟨w', ev', rfl⟩ := k
  exact ⟨w', ev ++ ev', by simp [State.withWork, State.withEvents]⟩

theorem State.WorkOnly.preserves {s t : State} (h : s.WorkOnly t) : s.Preserves t := by
  obtain ⟨w, ev, rfl⟩ := h
  exact .of_work_mac rfl rfl rfl ⟨ev, rfl⟩ rfl rfl rfl rfl

theorem State.withWork_workOnly (s : State) (w : Work) : s.WorkOnly (s.withWork w) :=
  ⟨w, [], by simp [State.withWork, State.withEvents]⟩

theorem State.emit_workOnly (s : State) (e : Event) : s.WorkOnly (s.emit e) := ⟨s.work, [e], rfl⟩

theorem State.raise_workOnly (s : State) (c : Cause) (i : BitVec 32) : s.WorkOnly (s.raise c i) := s.emit_workOnly _

theorem ksgUnsupported_workOnly (k : BitVec 8) (s : State) : s.WorkOnly (ksgUnsupported k s) :=
  (s.raise_workOnly _ _).trans (State.withWork_workOnly _ _)

theorem ksgDispatch_workOnly (t : BitVec 8) (s : State) : s.WorkOnly (ksgDispatch t s) := by
  unfold ksgDispatch
  split
  · exact s.withWork_workOnly _
  · exact s.withWork_workOnly _
  · exact s.withWork_workOnly _
  · exact ksgUnsupported_workOnly _ s
  · exact s.withWork_workOnly _

theorem generateKeystream_workOnly (key : Nat) (s : State) : s.WorkOnly (generateKeystream key s) := by
  unfold generateKeystream
  split
  · split
    · exact s.withWork_workOnly _
    · split
      · split
        · exact s.withWork_workOnly _
        · exact (s.withWork_workOnly _).trans (ksgDispatch_workOnly _ _)
      · exact ksgDispatch_workOnly _ s
  · exact s.withWork_workOnly _

theorem decryptMacElement_workOnly (key : Option Nat) (a n : Nat) (s : State) :
    s.WorkOnly (decryptMacElement key a n s).2 := by
  unfold decryptMacElement
  split
  · exact .refl s
  · dsimp only
    split
    · exact generateKeystream_workOnly _ s
    · exact (generateKeystream_workOnly _ s).trans (State.withWork_workOnly _ _)

/-- Decryption succeeds only with a key (44_crypto R219). -/
theorem decryptMacElement_key {key : Option Nat} {a n : Nat} {s : State} (h : (decryptMacElement key a n s).1 = true) :
    key.isSome = true := by
  unfold decryptMacElement at h
  split at h
  · simp at h
  · rfl

theorem decryptVoice_workOnly (v : List Soft) (s : State) : s.WorkOnly (decryptVoice v s).2.2 := by
  unfold decryptVoice
  split
  · exact .refl s
  · dsimp only
    split
    · exact generateKeystream_workOnly _ s
    · exact generateKeystream_workOnly _ s

/-! The upper MAC (45_upper_mac). -/

theorem stripFill_workOnly (fill : Bool) (q e : Nat) (s : State) : s.WorkOnly (stripFill fill q e s).2 := by
  unfold stripFill
  split
  · split
    · exact s.raise_workOnly _ _
    · exact .refl s
  · exact .refl s

theorem Time.setHn_inRange {t : Time} (h : t.inRange) (x : BitVec 16) : (t.setHn x).inRange := h

theorem broadcastSysinfo_preserves (s : State) : s.Preserves (broadcastSysinfo s) := by
  unfold broadcastSysinfo
  dsimp only
  split
  · exact (s.raiseNat_preserves _ _).trans (State.consume_preserves _ _)
  · have h := (s.withMac_preserves _ : s.Preserves (s.setSysinfo (readSysinfo s.pduRest))).trans
      (State.cryptoOnSysinfo_preserves _ (readSysinfo s.pduRest))
    split
    · exact h.trans (State.consume_preserves _ _)
    · exact (h.trans (State.withTime_preserves _ fun k => Time.setHn_inRange k _)).trans
        (State.consume_preserves _ _)

theorem resourceDecrypt_preserves (hdr : ResHeader) (fr : Bool) (h e : Nat) (s : State) :
    s.Preserves (resourceDecrypt hdr fr h e s).2 ∧
      ((resourceDecrypt hdr fr h e s).1 = some true → (resourceDecrypt hdr fr h e s).2.cs.cck.isSome = true) := by
  unfold resourceDecrypt
  split
  · exact ⟨.refl s, by simp⟩
  · dsimp only
    have h0 : s.Preserves (if fr = true then s.fragDiscardStale s.snapTn else s) := by
      split
      · exact s.fragDiscardStale_preserves _
      · exact .refl s
    generalize hs' : (if fr = true then s.fragDiscardStale s.snapTn else s) = s' at h0
    have h1 := decryptMacElement_workOnly s'.cs.cck h (e - h) s'
    have h2 := @decryptMacElement_key s'.cs.cck h (e - h) s'
    split
    · rename_i u hu
      rw [hu] at h1 h2
      refine ⟨h0.trans h1.preserves, fun _ => ?_⟩
      obtain ⟨w, ev, rfl⟩ := h1
      exact h2 rfl
    · rename_i u hu
      rw [hu] at h1
      exact ⟨(h0.trans h1.preserves).trans (State.raise_preserves _ _ _), by simp⟩

theorem resourceBody_preserves (hdr : ResHeader) (li : BitVec 6) (n : Nat) (s : State) :
    s.Preserves (resourceBody hdr li n s).2 ∧
      ∀ b, (resourceBody hdr li n s).1 = some b → b.decrypted = true →
        (resourceBody hdr li n s).2.cs.cck.isSome = true := by
  unfold resourceBody
  dsimp only
  have h := resourceDecrypt_preserves hdr (li == Config.liStartOfFragmentation)
    (s.pduPos + Config.resAddrOff + addrBits hdr.addrType) (s.pduPos + n) s
  split
  · rename_i u hu
    rw [hu] at h
    exact ⟨h.1, by simp⟩
  · rename_i d u hu
    rw [hu] at h
    split
    · exact ⟨h.1.trans (State.raise_preserves _ _ _), by simp⟩
    · rename_i q hq
      have hw := stripFill_workOnly hdr.fill q (s.pduPos + n) u
      refine ⟨h.1.trans hw.preserves, fun b hb hd => ?_⟩
      obtain ⟨w, ev, hw⟩ := hw
      rw [hw]
      simp only [Option.some.injEq] at hb
      subst hb
      exact h.2 (by simpa using hd)

theorem deliverResource_preserves (hdr : ResHeader) (b : Body) (s : State) : s.Preserves (deliverResource hdr b s) :=
  (s.withWork_preserves _ : s.Preserves (s.setL2 b.q)).trans (State.emit_preserves _ _)

theorem clipLength_preserves (li : BitVec 6) (s : State) : s.Preserves (clipLength li s).2 := by
  unfold clipLength
  split
  · exact s.raise_preserves _ _
  · exact .refl s

theorem liOctets_preserves (l : BitVec 6) (s : State) : s.Preserves (liOctets l s) := by
  unfold liOctets
  dsimp only
  split
  · exact (s.raise_preserves _ _).trans (State.consume_preserves _ _)
  · have h0 := clipLength_preserves l s
    generalize (clipLength l s).2 = s' at h0 ⊢
    generalize (clipLength l s).1 = n
    split
    · exact (h0.trans (State.raise_preserves _ _ _)).trans (State.consume_preserves _ _)
    · have hb := (resourceBody_preserves (readResHeader s.pduRest) l n s').1
      split
      · rename_i u hu
        rw [hu] at hb
        exact (h0.trans hb).trans (State.consume_preserves _ _)
      · rename_i b u hu
        rw [hu] at hb
        exact ((h0.trans hb).trans (deliverResource_preserves _ _ _)).trans (State.consume_preserves _ _)

theorem liSecondHalfStolen_preserves (s : State) : s.Preserves (liSecondHalfStolen s) := by
  unfold liSecondHalfStolen
  dsimp only
  have hb := (resourceBody_preserves (readResHeader s.pduRest) Config.liSecondHalfStolen s.pduRem s).1
  split
  · rename_i u hu
    rw [hu] at hb
    exact hb.trans (State.consume_preserves _ _)
  · rename_i b u hu
    rw [hu] at hb
    exact ((hb.trans (State.withMac_preserves _ _)).trans (deliverResource_preserves _ _ _)).trans
      (State.consume_preserves _ _)

theorem liStartOfFragmentation_preserves (s : State) : s.Preserves (liStartOfFragmentation s) := by
  unfold liStartOfFragmentation
  dsimp only
  have hb := resourceBody_preserves (readResHeader s.pduRest) Config.liStartOfFragmentation s.pduRem s
  split
  · rename_i u hu
    rw [hu] at hb
    exact hb.1.trans (State.consume_preserves _ _)
  · rename_i b u hu
    rw [hu] at hb
    refine (hb.1.trans (State.fragOpen_preserves _ _ _ _ _ fun hd => ?_)).trans (State.consume_preserves _ _)
    rw [if_pos hd]
    exact hb.2 b rfl hd

theorem lengthDispatch_preserves (li : BitVec 6) (s : State) : s.Preserves (lengthDispatch li s) := by
  unfold lengthDispatch
  split
  · exact liOctets_preserves _ s
  · exact liSecondHalfStolen_preserves s
  · exact liStartOfFragmentation_preserves s
  · exact s.consume_preserves _

theorem macResource_preserves (s : State) : s.Preserves (macResource s) := by
  unfold macResource
  dsimp only
  split
  · exact s.consume_preserves _
  · split
    · exact (s.raiseNat_preserves _ _).trans (State.consume_preserves _ _)
    · exact (s.withMac_preserves _ : s.Preserves (s.setAddr _)).trans (lengthDispatch_preserves _ _)

/-- A fragment's decryption changes only working registers and events when it succeeds (45_upper_mac R245). -/
theorem fragmentDecrypt_preserves (q e : Nat) (s : State) :
    s.Preserves (fragmentDecrypt q e s).2 ∧
      ((fragmentDecrypt q e s).1 = true → s.WorkOnly (fragmentDecrypt q e s).2) := by
  unfold fragmentDecrypt
  dsimp only
  have h := decryptMacElement_workOnly (s.fragAt s.snapTn).key q (e - q) s
  split
  · split
    · rename_i u hu
      rw [hu] at h
      exact ⟨h.preserves, fun _ => h⟩
    · rename_i u hu
      rw [hu] at h
      exact ⟨(h.preserves.trans (State.raise_preserves _ _ _)).trans (State.fragCleanup_preserves _ _), by simp⟩
  · exact ⟨.refl s, fun _ => .refl s⟩

/-- Generating a keystream leaves the snapshot alone (44_crypto R218). -/
theorem ksgDispatch_snap (t : BitVec 8) (s : State) : (ksgDispatch t s).work.snap = s.work.snap := by
  unfold ksgDispatch
  split <;> rfl

theorem generateKeystream_snap (key : Nat) (s : State) : (generateKeystream key s).work.snap = s.work.snap := by
  unfold generateKeystream
  split
  · split
    · rfl
    · split
      · split
        · rfl
        · rw [ksgDispatch_snap]; rfl
      · exact ksgDispatch_snap _ s
  · rfl

theorem decryptMacElement_snap (key : Option Nat) (a n : Nat) (s : State) :
    (decryptMacElement key a n s).2.work.snap = s.work.snap := by
  unfold decryptMacElement
  split
  · rfl
  · dsimp only
    split
    · exact generateKeystream_snap _ s
    · exact generateKeystream_snap _ s

theorem fragmentDecrypt_snap (q e : Nat) (s : State) : (fragmentDecrypt q e s).2.work.snap = s.work.snap := by
  unfold fragmentDecrypt
  dsimp only
  have h := decryptMacElement_snap (s.fragAt s.snapTn).key q (e - q) s
  split
  · split
    · rename_i u hu
      rw [hu] at h
      exact h
    · rename_i u hu
      rw [hu] at h
      exact h
  · rfl

theorem stripFill_snap (fill : Bool) (q e : Nat) (s : State) : (stripFill fill q e s).2.work.snap = s.work.snap := by
  unfold stripFill
  split
  · split <;> rfl
  · rfl

/-- The slot a fragment addresses stays active through decryption and fill stripping. -/
theorem WorkOnly_fragAt {s t : State} (h : s.WorkOnly t) (tn : BitVec 3) : t.fragAt tn = s.fragAt tn := by
  obtain ⟨w, ev, rfl⟩ := h
  rfl

theorem macFrag_preserves (s : State) : s.Preserves (macFrag s) := by
  unfold macFrag
  dsimp only
  split
  · rename_i ha
    have h := fragmentDecrypt_preserves (s.pduPos + Config.fragSduOff) s.work.pdu.bits.length s
    have hs := fragmentDecrypt_snap (s.pduPos + Config.fragSduOff) s.work.pdu.bits.length s
    split
    · rename_i u hu
      rw [hu] at h
      exact h.1.trans (State.consume_preserves _ _)
    · rename_i u hu
      rw [hu] at h hs
      have hw := stripFill_workOnly (readFlag Config.fragFill s.pduRest) (s.pduPos + Config.fragSduOff)
        s.work.pdu.bits.length u
      have hs2 := stripFill_snap (readFlag Config.fragFill s.pduRest) (s.pduPos + Config.fragSduOff)
        s.work.pdu.bits.length u
      refine ((h.1.trans hw.preserves).trans (State.fragAppend_preserves _ _ _ ?_)).trans (State.consume_preserves _ _)
      rw [WorkOnly_fragAt hw, WorkOnly_fragAt (h.2 rfl)]
      unfold State.snapTn
      rw [hs2, hs]
      exact ha
  · exact (s.raise_preserves _ _).trans (State.consume_preserves _ _)

theorem endBody_preserves (fill : Bool) (li : BitVec 6) (n : Nat) (s : State)
    (ha : (s.fragAt s.snapTn).active = true) : s.Preserves (endBody fill li n s) := by
  unfold endBody
  dsimp only
  have h := fragmentDecrypt_preserves (s.pduPos + Config.endElementsOff) (s.pduPos + n) s
  have hs := fragmentDecrypt_snap (s.pduPos + Config.endElementsOff) (s.pduPos + n) s
  split
  · rename_i u hu
    rw [hu] at h
    exact h.1
  · rename_i u hu
    rw [hu] at h hs
    split
    · exact (h.1.trans (State.raise_preserves _ _ _)).trans (State.fragCleanup_preserves _ _)
    · rename_i q hq
      have hw := stripFill_workOnly fill q (s.pduPos + n) u
      have hs2 := stripFill_snap fill q (s.pduPos + n) u
      refine ((h.1.trans hw.preserves).trans (State.fragAppend_preserves _ _ _ ?_)).trans
        (State.fragFinalize_preserves _ _)
      rw [WorkOnly_fragAt hw, WorkOnly_fragAt (h.2 rfl)]
      unfold State.snapTn
      rw [hs2, hs]
      exact ha

theorem macEnd_preserves (s : State) : s.Preserves (macEnd s) := by
  unfold macEnd
  dsimp only
  generalize readField 6 Config.endLengthInd s.pduRest = li
  generalize readFlag Config.endFill s.pduRest = fill
  split
  · exact (s.raise_preserves _ _).trans (State.consume_preserves _ _)
  · have h0 := clipLength_preserves li s
    generalize (clipLength li s).2 = s' at h0 ⊢
    generalize (clipLength li s).1 = n
    split
    · exact (h0.trans (State.raise_preserves _ _ _)).trans (State.consume_preserves _ _)
    · split
      · rename_i ha
        exact (h0.trans (endBody_preserves fill li n s' ha)).trans (State.consume_preserves _ _)
      · exact (h0.trans (State.raise_preserves _ _ _)).trans (State.consume_preserves _ _)

theorem macSupplementary_preserves (s : State) : s.Preserves (macSupplementary s) := by
  unfold macSupplementary
  dsimp only
  generalize (if readFlag Config.supSlotGranting s.pduRest = true then Config.slotGrantingBits else 0) = g
  split
  · exact (s.raiseNat_preserves _ _).trans (State.consume_preserves _ _)
  · split
    · exact (s.raiseNat_preserves _ _).trans (State.consume_preserves _ _)
    · exact (s.emit_preserves _).trans (State.consume_preserves _ _)

theorem umacPdu_preserves (s : State) : s.Preserves (umacPdu s) := by
  unfold umacPdu
  split
  · exact macResource_preserves s
  · exact macFrag_preserves s
  · exact macEnd_preserves s
  · exact broadcastSysinfo_preserves s
  · exact s.consume_preserves _
  · exact s.consume_preserves _
  · exact macSupplementary_preserves s
  · exact s.consume_preserves _

theorem umacLoop_preserves (fuel pos : Nat) (s : State) : s.Preserves (umacLoop fuel pos s) := by
  induction fuel generalizing pos s with
  | zero => exact .refl s
  | succ n ih =>
    unfold umacLoop
    split
    · exact .refl s
    · dsimp only
      have h : s.Preserves (umacPdu (s.setL1 pos)) := (s.withWork_preserves _).trans (umacPdu_preserves _)
      split
      · exact h
      · exact h.trans (ih _ _)

theorem umacBlock_preserves (type1 : Bits) (ok : Bool) (s : State) : s.Preserves (umacBlock type1 ok s) :=
  (((s.withWork_preserves _ : s.Preserves (s.loadPdu type1)).trans
    (State.withWork_preserves _ _ : (s.loadPdu type1).Preserves ((s.loadPdu type1).setL1 0))).trans
    (State.withWork_preserves _ _ : ((s.loadPdu type1).setL1 0).Preserves (((s.loadPdu type1).setL1 0).setCrcOk ok))).trans
    (umacLoop_preserves _ _ _)

/-! The lower MAC (43_splitter_lower_mac). -/

theorem State.stageDescramble_preserves (s : State) (init : BitVec 32) : s.Preserves (s.stageDescramble init) :=
  (s.withWork_preserves _ : s.Preserves (s.setPduBits _)).trans (State.withWork_preserves _ _)

theorem State.stageDecode_preserves (s : State) (p : BlockParams) : s.Preserves (s.stageDecode p) :=
  (((s.withWork_preserves _ : s.Preserves (s.stageDeinterleave p.K (p.a.getD 0))).trans
    (State.withWork_preserves _ _ : State.Preserves _ (State.stageForward _ p.n2))).trans
    (State.withWork_preserves _ _ : State.Preserves _ (State.stageTraceback _))).trans (State.withWork_preserves _ _)

theorem syncTime_inRange {t : Time} {f : SyncPdu} (hf : f.inRange = true) (h : t.inRange) :
    (t.setFromSync (f.tn.setWidth 3 + 1) f.fn f.mn).inRange := by
  simp only [SyncPdu.inRange, decide_eq_true_eq] at hf
  refine ⟨⟨hf.2.2.1, hf.2.2.2⟩, ⟨hf.1, hf.2.1⟩, ?_, h.2.2.2⟩
  simp only [Time.setFromSync]
  have := f.tn.isLt
  have e : (f.tn.setWidth 3 + 1).toNat = f.tn.toNat + 1 := by
    rw [BitVec.toNat_add, BitVec.toNat_setWidth, show (1 : BitVec 3).toNat = 1 from rfl]
    omega
  omega

theorem State.commitSync_preserves (s : State) (type1 : Bits) : s.Preserves (s.commitSync type1) := by
  unfold State.commitSync
  dsimp only
  split
  · rename_i hf
    refine ⟨rfl, rfl, rfl, .refl _, fun h => ?_, id, id, fun _ _ => rfl, fun _ => rfl, fun _ => ⟨rfl, rfl⟩⟩
    exact syncTime_inRange hf h
  · exact s.raiseNat_preserves _ _

theorem State.bbkPath_preserves (s : State) : s.Preserves s.bbkPath :=
  (s.emit_preserves _).trans (State.withMac_preserves _ _)

theorem State.voicePath_preserves (s : State) : s.Preserves s.voicePath := by
  unfold State.voicePath
  dsimp only
  exact ((decryptVoice_workOnly _ s).preserves).trans (State.emit_preserves _ _)

theorem State.reportBlock_preserves (s : State) (sb : SubBlock) (type1 : Bits) :
    s.Preserves (s.reportBlock sb type1) := by
  unfold State.reportBlock
  dsimp only
  refine (s.withMac_preserves _ : s.Preserves (s.setLastCrcFail s.crcGood)).trans (State.Preserves.trans ?_ (State.emit_preserves _ _))
  split
  · exact .refl _
  · exact State.raiseNat_preserves _ _ _

theorem State.codedPath_preserves (s : State) (sb : SubBlock) : s.Preserves (s.codedPath sb) := by
  unfold State.codedPath
  dsimp only
  have h := (s.stageDecode_preserves (Config.blockParams sb)).trans
    (State.reportBlock_preserves _ sb
      (slice (s.stageDecode (Config.blockParams sb)).work.pdu.bits 0 (Config.blockParams sb).n1))
  split
  · split
    · exact h.trans (State.commitSync_preserves _ _)
    · exact h
  · exact h.trans (umacBlock_preserves _ _ _)

theorem lowerMac_preserves (sb : SubBlock) (type5 : Bits) (blk : BitVec 2) (s : State) :
    s.Preserves (lowerMac sb type5 blk s) := by
  unfold lowerMac
  split
  · exact s.withWork_preserves _
  · dsimp only
    have h0 : s.Preserves ((s.takeSnap sb blk).loadPdu type5) :=
      (s.withWork_preserves _ : s.Preserves (s.takeSnap sb blk)).trans (State.withWork_preserves _ _)
    generalize (s.takeSnap sb blk).loadPdu type5 = s0 at h0
    have h1 : s.Preserves (if sb = .ndb ∧ blk = 1 ∧ s0.traffic = true then s0.setBlk1Stolen else s0) := by
      split
      · exact h0.trans (State.withMac_preserves _ _)
      · exact h0
    generalize (if sb = .ndb ∧ blk = 1 ∧ s0.traffic = true then s0.setBlk1Stolen else s0) = s1 at h1
    have h2 := h1.trans (s1.stageDescramble_preserves (if sb = .sb1 then scrambInitSb1 else s1.cell.scrambInit))
    generalize s1.stageDescramble (if sb = .sb1 then scrambInitSb1 else s1.cell.scrambInit) = s2 at h2
    refine State.Preserves.trans ?_ (State.withWork_preserves _ _)
    split
    · exact h2.trans s2.bbkPath_preserves
    · split
      · exact h2.trans s2.voicePath_preserves
      · exact h2.trans (s2.codedPath_preserves sb)

/-! Bursts (43_splitter_lower_mac R180 to R185). -/

theorem State.openBurst_preserves (s : State) (ty : TrainType) : s.Preserves (s.openBurst ty) :=
  (s.withMac_preserves _ : s.Preserves s.clearStolen).trans (State.emit_preserves _ _)

theorem burstSync_preserves (slot : Bits) (s : State) : s.Preserves (burstSync slot s) :=
  (((s.openBurst_preserves .sync).trans (lowerMac_preserves .sb1 _ _ _)).trans (lowerMac_preserves .bbk _ _ _)).trans
    (lowerMac_preserves .sb2 _ _ _)

theorem burstNorm1_preserves (slot : Bits) (s : State) : s.Preserves (burstNorm1 slot s) :=
  ((s.openBurst_preserves .norm1).trans (lowerMac_preserves .bbk _ _ _)).trans (lowerMac_preserves .schF _ _ _)

theorem burstNorm2_preserves (slot : Bits) (s : State) : s.Preserves (burstNorm2 slot s) :=
  (((s.openBurst_preserves .norm2).trans (lowerMac_preserves .bbk _ _ _)).trans (lowerMac_preserves .ndb _ _ _)).trans
    (lowerMac_preserves .ndb _ _ _)

theorem burstDispatch_preserves (ty : TrainType) (slot : Bits) (s : State) : s.Preserves (burstDispatch ty slot s) := by
  unfold burstDispatch
  split
  · exact burstSync_preserves slot s
  · exact burstNorm1_preserves slot s
  · exact burstNorm2_preserves slot s
  · exact .refl s
  · exact .refl s

end Sys2Proof.Machine
end

