-- ==== Sys2Proof/Laws/Sync.lean ====
section
/-! SUPPORT. What one step of the synchronizer does (42_burst_sync): everything but the synchronizer registers as the
pipeline preserves it, the stream position kept, and the invariant of 42_burst_sync R172 kept behind an append. -/

namespace Sys2Proof.Machine

/-- What a synchronizer step preserves: what the pipeline does, but for the synchronizer registers. -/
def State.PreservesButSync (s t : State) : Prop := (s.withSync t.sync).Preserves t

theorem State.Preserves.butSync {s t : State} (h : s.Preserves t) : s.PreservesButSync t :=
  ⟨rfl, h.port, h.db, h.events, h.time, h.frag, h.canonical, h.cell, h.valid, h.cache⟩

theorem State.PreservesButSync.trans {s t u : State} (h : s.PreservesButSync t) (k : t.PreservesButSync u) :
    s.PreservesButSync u :=
  ⟨rfl, k.port.trans h.port, k.db.trans h.db,
    (show s.EventsGrow t from h.events).trans (show t.EventsGrow u from k.events),
    fun x => k.time (h.time x), fun x => k.frag (h.frag x), fun x => k.canonical (h.canonical x), fun x => k.cell (h.cell x),
    fun x => k.valid (h.valid x), fun x => k.cache (h.cache x)⟩

theorem State.withSync_preservesButSync (s : State) (r : SyncRegs) : s.PreservesButSync (s.withSync r) :=
  ⟨rfl, rfl, rfl, .refl _, id, id, id, id, id, id⟩

theorem State.moveSync_preservesButSync (s : State) (x : SyncState) : s.PreservesButSync (s.moveSync x) :=
  (s.withSync_preservesButSync _ : s.PreservesButSync (s.setSyncState x)).trans (State.emit_preserves _ _).butSync

theorem State.loseSync_preservesButSync (s : State) (m : Option (TrainType × Nat)) : s.PreservesButSync (s.loseSync m) :=
  (s.raise_preserves _ _).butSync.trans (State.moveSync_preservesButSync _ _)

theorem unlockedStep_preserves (s : State) : s.PreservesButSync (unlockedStep s) := by
  unfold unlockedStep
  split
  · split
    · exact s.withSync_preservesButSync _
    · exact (State.Preserves.refl s).butSync
  · exact (s.withSync_preservesButSync _ : s.PreservesButSync (s.setNextFrameStart _)).trans
      (State.moveSync_preservesButSync _ _)

theorem knowStep_preserves (s : State) : s.PreservesButSync (knowStep s) := by
  unfold knowStep
  split
  · exact (s.withSync_preservesButSync _ : s.PreservesButSync (s.bitbufDiscard _)).trans
      (State.moveSync_preservesButSync _ _)
  · exact (State.Preserves.refl s).butSync

/-- Every result of `normalize` fits its register and is in range (40_tdma_time R111). -/
theorem Time.addTn_inRange (t : Time) (n : Nat) : (t.addTn n).inRange := by
  have bound : ∀ x k : Nat, 0 < k → 1 ≤ x % k + 1 ∧ x % k + 1 ≤ k := fun x k h => ⟨by omega, Nat.mod_lt x h⟩
  simp only [Time.addTn, normalize, Time.ofNormalized, Config.symbolsPerSlot, Config.slotsPerFrame,
    Config.framesPerMultiframe, Config.multiframesPerHyperframe]
  generalize t.sn.toNat = sn
  generalize t.tn.toNat + n = tn
  generalize t.fn.toNat = fn
  generalize t.mn.toNat = mn
  generalize tn + (sn - 1) / 255 = tn'
  generalize fn + (tn' - 1) / 4 = fn'
  generalize mn + (fn' - 1) / 18 = mn'
  have h1 := bound (sn - 1) 255 (by decide)
  have h2 := bound (tn' - 1) 4 (by decide)
  have h3 := bound (fn' - 1) 18 (by decide)
  have h4 := bound (mn' - 1) 60 (by decide)
  generalize (sn - 1) % 255 + 1 = a at h1
  generalize (tn' - 1) % 4 + 1 = b at h2
  generalize (fn' - 1) % 18 + 1 = c at h3
  generalize (mn' - 1) % 60 + 1 = d at h4
  simp only [Time.inRange, BitVec.toNat_ofNat]
  omega

theorem State.advanceSlot_preserves (s : State) : s.Preserves s.advanceSlot := by
  unfold State.advanceSlot
  dsimp only
  have h : s.Preserves (s.withTime (s.time.addTn 1)) := s.withTime_preserves fun _ => Time.addTn_inRange _ _
  split
  · exact h.trans (State.fragAgeAll_preserves _)
  · exact h

theorem slotVerdict_preserves (m : Option (TrainType × Nat)) (slot : Bits) (s : State) :
    s.PreservesButSync (slotVerdict m slot s) := by
  unfold slotVerdict
  split
  · split
    · exact (burstDispatch_preserves _ _ _).butSync
    · exact s.loseSync_preservesButSync _
  · exact s.loseSync_preservesButSync _

theorem lockedStep_preserves (s : State) : s.PreservesButSync (lockedStep s) := by
  unfold lockedStep
  split
  · exact (State.Preserves.refl s).butSync
  · exact (s.advanceSlot_preserves.butSync.trans (slotVerdict_preserves _ _ _)).trans
      (State.withSync_preservesButSync _ _)

theorem syncStep_preserves (s : State) : s.PreservesButSync (syncStep s) := by
  unfold syncStep
  split
  · exact unlockedStep_preserves s
  · exact knowStep_preserves s
  · exact lockedStep_preserves s

/-! The synchronizer registers. -/

/-- The verdict on a slot changes nothing of the synchronizer but its state (42_burst_sync R167, R168). -/
theorem slotVerdict_sync (m : Option (TrainType × Nat)) (slot : Bits) (s : State) :
    (slotVerdict m slot s).sync =
      if m.isSome ∧ m.bind (fun x => expectedOffset x.1) = m.map Prod.snd then s.sync
      else { s.sync with state := .unlocked } := by
  unfold slotVerdict
  split
  · rename_i ty off
    split
    · rename_i h
      rw [(burstDispatch_preserves ty slot s).sync, if_pos]
      exact ⟨rfl, h⟩
    · rename_i h
      rw [if_neg]
      · rfl
      · intro k; exact h k.2
  · rw [if_neg]
    · rfl
    · intro k; exact absurd k.1 (by simp)

theorem slotVerdict_sync_cases (m : Option (TrainType × Nat)) (slot : Bits) (s : State) :
    (slotVerdict m slot s).sync = s.sync ∨ (slotVerdict m slot s).sync = { s.sync with state := .unlocked } := by
  rw [slotVerdict_sync]
  split
  · exact .inl rfl
  · exact .inr rfl

/-- A match the detector reports ends within the vector (42_burst_sync R162). -/
theorem matchHere_length {mask : List TrainType} {v : Bits} {ty : TrainType} (h : matchHere mask v = some ty) :
    ∃ pat, Config.tsq ty = some pat ∧ pat.length ≤ v.length := by
  unfold matchHere at h
  have k := List.find?_some h
  simp only [Bool.and_eq_true] at k
  have k := k.2
  unfold matchesAt at k
  split at k
  · simp at k
  · rename_i pat hp
    simp only [Bool.and_eq_true, decide_eq_true_eq] at k
    exact ⟨pat, hp, k.1⟩

theorem findTrainSeqFrom_length {mask : List TrainType} {ty : TrainType} {off : Nat} :
    ∀ {v : Bits} {n : Nat}, findTrainSeqFrom mask n v = some (ty, off) →
      ∃ pat, Config.tsq ty = some pat ∧ off + pat.length ≤ n + v.length
  | [], n, h => by simp [findTrainSeqFrom] at h
  | b :: v, n, h => by
    unfold findTrainSeqFrom at h
    split at h
    · rename_i ty' hm
      simp only [Option.some.injEq, Prod.mk.injEq] at h
      obtain ⟨rfl, rfl⟩ := h
      obtain ⟨pat, hp, hl⟩ := matchHere_length hm
      exact ⟨pat, hp, by omega⟩
    · obtain ⟨pat, hp, hl⟩ := findTrainSeqFrom_length h
      exact ⟨pat, hp, by simp only [List.length_cons]; omega⟩

theorem findTrainSeqFrom_mask {mask : List TrainType} {ty : TrainType} {off : Nat} :
    ∀ {v : Bits} {n : Nat}, findTrainSeqFrom mask n v = some (ty, off) → ty ∈ mask
  | [], n, h => by simp [findTrainSeqFrom] at h
  | b :: v, n, h => by
    unfold findTrainSeqFrom at h
    split at h
    · rename_i ty' hm
      simp only [Option.some.injEq, Prod.mk.injEq] at h
      obtain ⟨rfl, rfl⟩ := h
      have k := List.find?_some hm
      simp only [Bool.and_eq_true, List.contains_iff_mem] at k
      exact k.1
    · exact findTrainSeqFrom_mask h

/-- A SYNC match needs 38 bits from its offset on (42_burst_sync R162). -/
theorem findTrainSeq_sync_bound {v : Bits} {ty : TrainType} {off : Nat}
    (h : findTrainSeq v [.sync] = some (ty, off)) : ty = .sync ∧ off + 38 ≤ v.length := by
  have hm := findTrainSeqFrom_mask h
  obtain ⟨pat, hp, hl⟩ := findTrainSeqFrom_length h
  simp only [List.mem_singleton] at hm
  subst hm
  simp only [Config.tsq, Option.some.injEq] at hp
  have : pat.length = 38 := by rw [← hp]; rfl
  exact ⟨rfl, by omega⟩

/-- The stream position stands still in a synchronizer step: what is discarded is counted (10_state R23). -/
theorem syncStep_position (s : State) :
    (syncStep s).sync.startBitnum + (syncStep s).sync.bitbuf.length = s.sync.startBitnum + s.sync.bitbuf.length := by
  unfold syncStep
  split
  · unfold unlockedStep
    split
    · split
      · rename_i h
        simp only [State.bitbufLen] at h ⊢
        simp only [State.bitbufDiscard_sync, List.length_drop]
        omega
      · rfl
    · rfl
  · unfold knowStep
    split
    · rename_i h
      simp only [State.bitbufLen] at h
      simp only [State.moveSync, State.emit_sync, State.setSyncState_sync, State.bitbufDiscard_sync, List.length_drop]
      omega
    · rfl
  · unfold lockedStep
    split
    · rfl
    · rename_i h
      simp only [State.bitbufLen, Config.bitsPerTs] at h
      rw [State.bitbufDiscard_sync, slotVerdict_sync]
      have e := s.advanceSlot_preserves.sync
      split <;> (simp only [e, List.length_drop, Config.bitsPerTs]; omega)

/-- The invariant of the synchronizer holds again behind an append and a step (42_burst_sync R172). -/
theorem syncStep_ok (s : State) (b : Bool) (h : s.sync.Ok) : (syncStep (s.bitbufAppend b)).sync.Ok := by
  have hstate : (s.bitbufAppend b).sync.state = s.sync.state := rfl
  have hlen : (s.bitbufAppend b).sync.bitbuf.length = s.sync.bitbuf.length + 1 := by simp
  have hstart : (s.bitbufAppend b).sync.startBitnum = s.sync.startBitnum := rfl
  have hnext : (s.bitbufAppend b).sync.nextFrameStart = s.sync.nextFrameStart := rfl
  generalize s.bitbufAppend b = t at *
  unfold SyncRegs.Ok at h
  unfold syncStep
  rw [hstate]
  cases hu : s.sync.state <;> rw [hu] at h
  · dsimp only at h ⊢
    unfold unlockedStep
    split
    · split
      · rename_i k
        simp only [State.bitbufLen, Config.unlockedKeep] at k
        unfold SyncRegs.Ok
        simp only [State.bitbufDiscard_sync, hstate, hu, List.length_drop, State.bitbufLen, Config.unlockedKeep]
        omega
      · rename_i k
        simp only [State.bitbufLen, Config.unlockedKeep] at k
        unfold SyncRegs.Ok
        simp only [hstate, hu]
        omega
    · rename_i ty off hm
      have := findTrainSeq_sync_bound hm
      unfold SyncRegs.Ok
      simp only [State.moveSync, State.emit_sync, State.setSyncState_sync, State.setNextFrameStart_sync,
        Config.fsAdvance, Config.bitsPerTs, Config.offTsqSync]
      omega
  · dsimp only at h ⊢
    unfold knowStep
    split
    · rename_i k
      simp only [State.bitbufLen] at k
      unfold SyncRegs.Ok
      simp only [State.moveSync, State.emit_sync, State.setSyncState_sync, State.bitbufDiscard_sync, List.length_drop]
      omega
    · rename_i k
      simp only [State.bitbufLen] at k
      unfold SyncRegs.Ok
      simp only [hstate, hu]
      omega
  · dsimp only at h ⊢
    unfold lockedStep
    split
    · rename_i k
      simp only [State.bitbufLen, Config.bitsPerTs] at k
      unfold SyncRegs.Ok
      simp only [hstate, hu]
      omega
    · rename_i k
      simp only [State.bitbufLen, Config.bitsPerTs] at k
      rw [State.bitbufDiscard_sync]
      rcases slotVerdict_sync_cases (findTrainSeq t.slot [.sync, .norm1, .norm2]) t.slot t.advanceSlot with e | e
      · rw [e, t.advanceSlot_preserves.sync]
        unfold SyncRegs.Ok
        simp only [hstate, hu, List.length_drop, Config.bitsPerTs]; omega
      · rw [e, t.advanceSlot_preserves.sync]
        unfold SyncRegs.Ok
        simp only [List.length_drop, Config.bitsPerTs]; omega

end Sys2Proof.Machine
end

