-- ==== Sys2Proof/Laws/Memory.lean ====
section
/-! SUPPORT. Every memory operation keeps the canonical form of the memories (20_memory R60 to R64), and the reset state
has it. -/

namespace Sys2Proof.Machine

theorem State.reset_memory_wf : Memory.wf State.reset :=
  ⟨Nat.zero_le _, ⟨FragSlot.reset_wf, FragSlot.reset_wf, FragSlot.reset_wf, FragSlot.reset_wf⟩, Nat.zero_le _,
    Nat.zero_le _, rfl⟩

/-- The canonical form rests on the bit buffer, the fragment file and the tables alone. -/
theorem Memory.wf_of_eq {s t : State} (h : Memory.wf s) (h1 : t.sync.bitbuf = s.sync.bitbuf) (h2 : t.frag = s.frag)
    (h3 : t.db.nets = s.db.nets) (h4 : t.db.keys = s.db.keys) : Memory.wf t := by
  unfold Memory.wf
  rw [h1, h2, h3, h4]
  exact h

theorem State.bitbufAppend_memory_wf {s : State} (h : Memory.wf s) (b : Bool)
    (k : s.sync.bitbuf.length < Config.bitbufCap) : Memory.wf (s.bitbufAppend b) :=
  ⟨by simp only [State.bitbufAppend_sync, List.length_append, List.length_singleton]; omega, h.2⟩

theorem State.bitbufDiscard_memory_wf {s : State} (h : Memory.wf s) (d : Nat) : Memory.wf (s.bitbufDiscard d) :=
  ⟨by
    have := h.1
    simp only [State.bitbufDiscard_sync, List.length_drop]
    omega, h.2⟩

theorem State.setFrag_memory_wf {s : State} (h : Memory.wf s) (tn : BitVec 3) {x : FragSlot} (hx : x.wf) :
    Memory.wf (s.setFrag tn x) := ⟨h.1, FragFile.set_wf (f := s.frag) h.2.1 tn hx, h.2.2⟩

theorem State.lockDb_memory_wf {s : State} (h : Memory.wf s) : Memory.wf s.lockDb :=
  Memory.wf_of_eq h rfl rfl rfl rfl

theorem State.appendNet_memory_wf {s : State} (h : Memory.wf s) (e : NetEntry) (k : s.nNets ≠ Config.netCap) :
    Memory.wf (s.appendNet e) := by
  have hk : s.db.nets.length ≠ Config.netCap := k
  have h3 := h.2.2.1
  refine ⟨h.1, h.2.1, ?_, h.2.2.2⟩
  simp only [State.appendNet_db, List.length_append, List.length_singleton]
  omega

theorem State.appendKey_memory_wf {s : State} (h : Memory.wf s) (e : KeyEntry) (k : s.nKeys ≠ Config.keyCap) :
    Memory.wf (s.appendKey e) := by
  have hk : s.db.keys.length ≠ Config.keyCap := k
  have h4 := h.2.2.2.1
  refine ⟨h.1, h.2.1, h.2.2.1, ?_, ?_⟩
  · simp only [State.appendKey_db, List.length_append, List.length_singleton]
    omega
  · simp only [State.appendKey_db, List.length_append, List.length_singleton, List.map_append, List.range_succ,
      List.map_cons, List.map_nil]
    rw [h.2.2.2.2]

/-- The pipeline keeps the canonical form. -/
theorem State.Preserves.memory_wf {s t : State} (p : s.Preserves t) (h : Memory.wf s) : Memory.wf t := by
  refine ⟨?_, p.canonical h.2.1, ?_⟩
  · rw [p.sync]; exact h.1
  · rw [p.db]; exact h.2.2

/-- A synchronizer step keeps the canonical form of everything but M1, and M1 does not grow in it. -/
theorem syncStep_bitbuf_le (s : State) : (syncStep s).sync.bitbuf.length ≤ s.sync.bitbuf.length := by
  unfold syncStep
  split
  · unfold unlockedStep
    split
    · split
      · simp
      · exact Nat.le_refl _
    · exact Nat.le_refl _
  · unfold knowStep
    split
    · simp [State.moveSync]
    · exact Nat.le_refl _
  · unfold lockedStep
    split
    · exact Nat.le_refl _
    · rw [State.bitbufDiscard_sync]
      rcases slotVerdict_sync_cases (findTrainSeq s.slot [.sync, .norm1, .norm2]) s.slot s.advanceSlot with e | e
      · rw [e, s.advanceSlot_preserves.sync]; simp
      · rw [e, s.advanceSlot_preserves.sync]; simp

theorem syncStep_memory_wf {s : State} (h : Memory.wf s) : Memory.wf (syncStep s) := by
  have p := syncStep_preserves s
  refine ⟨Nat.le_trans (syncStep_bitbuf_le s) h.1, p.canonical h.2.1, ?_⟩
  rw [p.db]
  exact h.2.2

end Sys2Proof.Machine
end

