-- ==== Sys2Proof/Laws/Pdu.lean ====
section
/-! SUPPORT. What the shared operations at the front of the upper MAC can answer (30_encoding R92, R95, 45_upper_mac R231
to R237): one lemma per operation. -/

namespace Sys2Proof

/-- The operation of a PDU prefix, for any PDU of at least four bits (30_encoding R92). -/
theorem decodePdu_cons (a b c d : Bool) (v : Bits) : decodePdu (a :: b :: c :: d :: v) = .instr
    (match a, b, c, d with
      | false, false, _, _ => .macResource
      | false, true, false, _ => .macFrag
      | false, true, true, _ => .macEnd
      | true, false, false, false => .broadcastSysinfo
      | true, false, false, true => .broadcastAccessDefine
      | true, false, true, x => .broadcastOther x
      | true, true, _, _ => .macSupplementary) := by
  cases a <;> cases b <;> cases c <;> cases d <;> rfl

@[simp] theorem negateUnder_length (v : List Soft) (ks : Bits) : (negateUnder v ks).length = v.length := by
  induction v generalizing ks with
  | nil => cases ks <;> rfl
  | cons x v ih => cases ks with
    | nil => rfl
    | cons k ks => simp [negateUnder, ih]

@[simp] theorem scrambleSoft_length (x : List Soft) (init : BitVec 32) : (scrambleSoft x init).length = x.length :=
  negateUnder_length x _

namespace Machine

/-- A MAC PDU stands in the buffer exactly when `pdu.l1` is set with 16 bits behind it, and then `pduPos` is that
offset (00_scope R12, 45_upper_mac R231). -/
theorem State.hasPdu_iff (s : State) :
    s.hasPdu = true ↔ s.work.pdu.l1 = some s.pduPos ∧ s.pduPos + 16 ≤ s.work.pdu.bits.length := by
  unfold State.hasPdu State.pduPos
  cases s.work.pdu.l1 with
  | none => simp
  | some p => exact ⟨fun h => ⟨rfl, of_decide_eq_true h⟩, fun h => decide_eq_true h.2⟩

/-- The length indications that give no length in octets are 0 and 35 to 63 (30_encoding R95). -/
theorem lengthReserved_iff (li : BitVec 6) : lengthReserved li = true ↔ li.toNat < 1 ∨ 34 < li.toNat := by
  unfold lengthReserved
  rw [Bool.or_eq_true, decide_eq_true_iff, decide_eq_true_iff]
  exact .rfl

/-- A length in octets is clipped to the block, with one warning when it is (45_upper_mac R237). -/
theorem clipLength_eq (li : BitVec 6) (s : State) : clipLength li s =
    (min (8 * li.toNat) s.pduRem, if s.pduRem < 8 * li.toNat then s.raise .wPduLen (li.setWidth 32) else s) := by
  unfold clipLength Config.liUnitBits
  split
  · rw [Nat.min_eq_right (by omega)]
  · rw [Nat.min_eq_left (by omega)]

end Machine

end Sys2Proof
end

