-- ==== Sys2Proof/Laws/PerInstr.lean ====
section
/-! SUPPORT. Statements made per instruction. `EncodeSpace`: the encoder puts each instruction into the encoding space
of its own row of spec/opcode_table.json (30_encoding). -/

namespace Sys2Proof.Laws

/-- The encoding spaces of spec/opcode_table.json. -/
inductive Space
  | command | training | subBlock | pdu | lengthInd | ksg
deriving DecidableEq, Repr

/-- The space of a word. -/
def spaceOf : PortWord → Space
  | .command _ => .command
  | .training _ => .training
  | .subBlock _ => .subBlock
  | .pdu _ => .pdu
  | .lengthInd _ => .lengthInd
  | .ksg _ => .ksg

/-- The space of an instruction's row. -/
def rowSpace : Instr → Space
  | .nop => .command
  | .reset => .command
  | .pushBit _ => .command
  | .loadNet _ _ _ _ => .command
  | .loadKey _ _ _ _ _ _ => .command
  | .tsqSync => .training
  | .tsqNorm1 => .training
  | .tsqNorm2 => .training
  | .sb1 => .subBlock
  | .sb2 => .subBlock
  | .ndb => .subBlock
  | .bbk => .subBlock
  | .schHu => .subBlock
  | .schF => .subBlock
  | .macResource => .pdu
  | .macFrag => .pdu
  | .macEnd => .pdu
  | .broadcastSysinfo => .pdu
  | .broadcastAccessDefine => .pdu
  | .broadcastOther _ => .pdu
  | .macSupplementary => .pdu
  | .liOctets _ => .lengthInd
  | .liSecondHalfStolen => .lengthInd
  | .liStartOfFragmentation => .lengthInd
  | .ksgTea1 => .ksg
  | .ksgTea2 => .ksg
  | .ksgTea3 => .ksg
  | .ksgUnsupported _ => .ksg

/-- The encoder stays in the row's own space. -/
def EncodeSpace.Statement (i : Instr) : Prop := spaceOf (encode i) = rowSpace i

theorem EncodeSpace.nop : EncodeSpace.Statement .nop := rfl
theorem EncodeSpace.reset : EncodeSpace.Statement .reset := rfl
theorem EncodeSpace.pushBit (b : Bool) : EncodeSpace.Statement (.pushBit b) := rfl
theorem EncodeSpace.loadNet (mcc mnc : BitVec 16) (ksgType securityClass : BitVec 8) :
    EncodeSpace.Statement (.loadNet mcc mnc ksgType securityClass) := rfl
theorem EncodeSpace.loadKey (mcc mnc : BitVec 16) (addr : BitVec 32) (keyType : BitVec 8) (keyNum : BitVec 32) (key : BitVec 80) :
    EncodeSpace.Statement (.loadKey mcc mnc addr keyType keyNum key) := rfl
theorem EncodeSpace.tsqSync : EncodeSpace.Statement .tsqSync := rfl
theorem EncodeSpace.tsqNorm1 : EncodeSpace.Statement .tsqNorm1 := rfl
theorem EncodeSpace.tsqNorm2 : EncodeSpace.Statement .tsqNorm2 := rfl
theorem EncodeSpace.sb1 : EncodeSpace.Statement .sb1 := rfl
theorem EncodeSpace.sb2 : EncodeSpace.Statement .sb2 := rfl
theorem EncodeSpace.ndb : EncodeSpace.Statement .ndb := rfl
theorem EncodeSpace.bbk : EncodeSpace.Statement .bbk := rfl
theorem EncodeSpace.schHu : EncodeSpace.Statement .schHu := rfl
theorem EncodeSpace.schF : EncodeSpace.Statement .schF := rfl
theorem EncodeSpace.macResource : EncodeSpace.Statement .macResource := rfl
theorem EncodeSpace.macFrag : EncodeSpace.Statement .macFrag := rfl
theorem EncodeSpace.macEnd : EncodeSpace.Statement .macEnd := rfl
theorem EncodeSpace.broadcastSysinfo : EncodeSpace.Statement .broadcastSysinfo := rfl
theorem EncodeSpace.broadcastAccessDefine : EncodeSpace.Statement .broadcastAccessDefine := rfl
theorem EncodeSpace.broadcastOther (b : Bool) : EncodeSpace.Statement (.broadcastOther b) := rfl
theorem EncodeSpace.macSupplementary : EncodeSpace.Statement .macSupplementary := rfl
theorem EncodeSpace.liOctets (l : BitVec 6) : EncodeSpace.Statement (.liOctets l) := rfl
theorem EncodeSpace.liSecondHalfStolen : EncodeSpace.Statement .liSecondHalfStolen := rfl
theorem EncodeSpace.liStartOfFragmentation : EncodeSpace.Statement .liStartOfFragmentation := rfl
theorem EncodeSpace.ksgTea1 : EncodeSpace.Statement .ksgTea1 := rfl
theorem EncodeSpace.ksgTea2 : EncodeSpace.Statement .ksgTea2 := rfl
theorem EncodeSpace.ksgTea3 : EncodeSpace.Statement .ksgTea3 := rfl
theorem EncodeSpace.ksgUnsupported (k : BitVec 8) : EncodeSpace.Statement (.ksgUnsupported k) := rfl

end Sys2Proof.Laws
end

