-- ==== Sys2Proof/Machine/Assembler.lean ====
section
/-! DEFINITION. The text forms (30_encoding R104 to R106): key-store lines, command mnemonics and pseudo-instructions,
assembled to command words. The assembler stands outside the core (60_exceptions R285); its words are ordinary
commands. Text is a list of characters. -/

namespace Sys2Proof

/-- What a line assembles to: command words in order (none for a comment or an empty line), or a refusal. -/
inductive Assembled
  | words (ws : List CmdWord)
  | refused
deriving DecidableEq, Repr

/-- White space between fields (30_encoding R104; log 27). -/
def isBlankChar (c : Char) : Bool := c == ' ' || c == '\t' || c == '\r'

/-- The fields of a line, separated by white space; `cur` is the field being read, reversed. -/
def fieldsFrom : List Char → List Char → List (List Char)
  | cur, [] => if cur = [] then [] else [cur.reverse]
  | cur, c :: cs =>
    if isBlankChar c then (if cur = [] then fieldsFrom [] cs else cur.reverse :: fieldsFrom [] cs)
    else fieldsFrom (c :: cur) cs

/-- The fields of a line. -/
def lineFields (line : List Char) : List (List Char) := fieldsFrom [] line

/-- A decimal digit. -/
def decDigit (c : Char) : Option Nat :=
  if 48 ≤ c.toNat ∧ c.toNat ≤ 57 then some (c.toNat - 48) else none

/-- A hexadecimal digit: `0` to `9`, `a` to `f`, `A` to `F` (30_encoding R104). -/
def hexDigit (c : Char) : Option Nat :=
  if 48 ≤ c.toNat ∧ c.toNat ≤ 57 then some (c.toNat - 48)
  else if 97 ≤ c.toNat ∧ c.toNat ≤ 102 then some (c.toNat - 87)
  else if 65 ≤ c.toNat ∧ c.toNat ≤ 70 then some (c.toNat - 55)
  else none

/-- Digits in base `base`, most significant first, onto the value read so far. -/
def digitsFrom (digit : Char → Option Nat) (base : Nat) : Nat → List Char → Option Nat
  | n, [] => some n
  | n, c :: cs =>
    match digit c with
    | none => none
    | some d => digitsFrom digit base (base * n + d) cs

/-- `<int>`: a decimal natural number that fits `w` bits (30_encoding R83, R104). -/
def parseInt (w : Nat) (t : List Char) : Option (BitVec w) :=
  if t = [] then none
  else
    match digitsFrom decDigit 10 0 t with
    | none => none
    | some n => if n < 2 ^ w then some (BitVec.ofNat w n) else none

/-- A decimal natural number of any size. -/
def parseNat (t : List Char) : Option Nat := if t = [] then none else digitsFrom decDigit 10 0 t

/-- The key material: 20 hexadecimal characters, the first two giving `key[0]` (20_memory R66). -/
def parseKey (t : List Char) : Option (BitVec 80) :=
  if t.length = 20 then (digitsFrom hexDigit 16 0 t).map (BitVec.ofNat 80) else none

/-- The command word of an instruction that is a command. -/
def commandOf (i : Instr) : Assembled :=
  match encode i with
  | .command w => .words [w]
  | _ => .refused

/-- `network mcc <int> mnc <int> ksg_type <int> security_class <int>` (30_encoding R104). -/
def assembleNetwork (mcc mnc ksgType securityClass : List Char) : Assembled :=
  match parseInt 16 mcc, parseInt 16 mnc, parseInt 8 ksgType, parseInt 8 securityClass with
  | some a, some b, some t, some c => commandOf (.loadNet a b t c)
  | _, _, _, _ => .refused

/-- `key mcc <int> mnc <int> addr <int> key_type <int> key_num <int> key <20 hex chars>` (30_encoding R104). -/
def assembleKey (mcc mnc addr keyType keyNum key : List Char) : Assembled :=
  match parseInt 16 mcc, parseInt 16 mnc, parseInt 32 addr, parseInt 8 keyType, parseInt 32 keyNum, parseKey key with
  | some a, some b, some ad, some kt, some kn, some k => commandOf (.loadKey a b ad kt kn k)
  | _, _, _, _, _, _ => .refused

/-- The two key-store line forms, keywords literal and in exactly this order (30_encoding R104). -/
def assembleKeystoreFields (fs : List (List Char)) : Assembled :=
  match fs with
  | [k0, k1, mcc, k2, mnc, k3, ksgType, k4, securityClass] =>
    if k0 = "network".toList ∧ k1 = "mcc".toList ∧ k2 = "mnc".toList ∧ k3 = "ksg_type".toList ∧
        k4 = "security_class".toList then
      assembleNetwork mcc mnc ksgType securityClass
    else .refused
  | [k0, k1, mcc, k2, mnc, k3, addr, k4, keyType, k5, keyNum, k6, key] =>
    if k0 = "key".toList ∧ k1 = "mcc".toList ∧ k2 = "mnc".toList ∧ k3 = "addr".toList ∧ k4 = "key_type".toList ∧
        k5 = "key_num".toList ∧ k6 = "key".toList then
      assembleKey mcc mnc addr keyType keyNum key
    else .refused
  | _ => .refused

/-- One line of key-store text (30_encoding R104): a line whose first character is `#` and a line without fields
assemble to nothing (log 27). -/
def assembleKeystoreLine (line : List Char) : Assembled :=
  if line.head? = some '#' then .words []
  else if lineFields line = [] then .words []
  else assembleKeystoreFields (lineFields line)

/-- The report of a refused key-store line (60_exceptions R281, R285): `E_KEYSTORE` with the line number, raised by the
assembler, never by the core. -/
def keystoreError (line : Nat) : Machine.Event := .diag .eKeystore (BitVec.ofNat 32 line)

/-- A key-store text whose first line has number `line`: the command words of its good lines and the reports of its
bad ones ("a recoverable load error", 60_exceptions R285). -/
def assembleKeystore : Nat → List (List Char) → List CmdWord × List Machine.Event
  | _, [] => ([], [])
  | line, l :: ls =>
    let rest := assembleKeystore (line + 1) ls
    match assembleKeystoreLine l with
    | .words ws => (ws ++ rest.1, rest.2)
    | .refused => (rest.1, keystoreError line :: rest.2)

/-- A character of a `bits` or `slot` operand. -/
def bitChar (c : Char) : Option Bool :=
  if c = '0' then some false else if c = '1' then some true else none

/-- One `PUSH_BIT` word per character, left to right (30_encoding R106). -/
def pushWords : List Char → Option (List CmdWord)
  | [] => some []
  | c :: cs =>
    match bitChar c, pushWords cs, commandOf (.pushBit (c == '1')) with
    | some _, some ws, .words w => some (w ++ ws)
    | _, _, _ => none

/-- The words, or a refusal. -/
def assembledOf : Option (List CmdWord) → Assembled
  | some ws => .words ws
  | none => .refused

/-- The part of a command line before a comment (30_encoding R105). -/
def stripComment (line : List Char) : List Char := line.takeWhile fun c => c != '#'

/-- One line of command mnemonics or pseudo-instructions (30_encoding R105, R106): `nop`, `reset`, `bit b`,
`bits <string>`, `slot <510 characters>`, `fill n b`, and the two key-store forms. -/
def assembleCommandLine (line : List Char) : Assembled :=
  match lineFields (stripComment line) with
  | [] => .words []
  | [m] =>
    if m = "nop".toList then commandOf .nop
    else if m = "reset".toList then commandOf .reset
    else .refused
  | [m, a] =>
    if m = "bit".toList then (if a.length = 1 then assembledOf (pushWords a) else .refused)
    else if m = "bits".toList then assembledOf (pushWords a)
    else if m = "slot".toList then (if a.length = 510 then assembledOf (pushWords a) else .refused)
    else .refused
  | [m, n, b] =>
    if m = "fill".toList ∧ b.length = 1 then
      match parseNat n, b.head? with
      | some k, some c => assembledOf (pushWords (List.replicate k c))
      | _, _ => .refused
    else .refused
  | fs => assembleKeystoreFields fs

end Sys2Proof
end

