-- ==== Sys2Proof/Tests/Slice0.lean ====
section
/-! SUPPORT. The model's own tests: the well-formedness smoke, decoding of words written out from 30_encoding, a few
vectors of 95_test_vectors (each named in its comment), and for every obligation with hypotheses a state that meets
them. -/

open Sys2Proof Sys2Proof.Machine

namespace Sys2Proof.Tests

set_option Elab.async false

/-! Helpers. -/

/-- The next state, or the state itself where there is none. -/
def after (o : Host.Outcome State Fault Refusal) (s : State) : State :=
  match o with
  | .next t => t
  | .fault _ => s
  | .refused _ => s

/-- Whether an outcome is a next state. -/
def isNext (o : Host.Outcome State Fault Refusal) : Bool :=
  match o with
  | .next _ => true
  | .fault _ => false
  | .refused _ => false

/-- The fault an outcome ends in. -/
def faultOf (o : Host.Outcome State Fault Refusal) : Option Fault :=
  match o with
  | .next _ => none
  | .fault f => some f
  | .refused _ => none

theorem next_of_isNext {o : Host.Outcome State Fault Refusal} {s : State} (h : isNext o = true) :
    o = .next (after o s) := by
  cases o <;> simp_all [isNext, after]

/-- The reset state with `v` as bit buffer and the synchronizer in `x`. -/
def atSync (x : SyncState) (v : Bits) : State := State.reset.withSync { SyncRegs.reset with state := x, bitbuf := v }

/-- The reset state with a valid cell 123/456/5 (vector Z1). -/
def inCell : State :=
  State.reset.withCell { mcc := 123, mnc := 456, cc := 5, scrambInit := 0x1EC1C817, valid := true }

/-- `s` with `v` in the PDU buffer and the current PDU at its start, in timeslot 3, block 1 (vectors U). -/
def onPdu (v : Bits) (s : State) : State :=
  s.withWork { Work.idle with
    pdu := { Pdu.empty with bits := v, l1 := some 0 }, crcOk := true
    snap := { time := { hn := 7, mn := 59, fn := 17, tn := 3, sn := 1 }, blkNum := 1, subblock := .ndb } }

/-- A 510-bit slot with `pat` at offset `off` and zeros elsewhere. -/
def slotWith (off : Nat) (pat : Bits) : Bits :=
  List.replicate off false ++ pat ++ List.replicate (510 - off - pat.length) false

/-- A clear active fragment slot with one fragment of four bits. -/
def openSlot : FragSlot :=
  { active := true, age := 0, numFrags := 1, length := 4, encrypted := false, key := none,
    buf := [true, false, true, true] }

/-- Crypto state and tables in which the generator of code `kt` gives a keystream for key 0. -/
def keyed (kt : BitVec 8) (s : State) : State :=
  { s with
    cs := { mcc := some 123, mnc := some 456, cc := some 5, cckId := some 9, hn := some 7, la := some 77,
            cn := some 1001, network := some 0, cck := some 0 }
    db := { locked := true, nets := [{ mcc := 123, mnc := 456, ksgType := kt, securityClass := 3 }],
            keys := [{ mcc := 123, mnc := 456, addr := 0, keyType := 4, keyNum := 9, key := 0x0102, index := 0 }] } }

/-! Well-formedness: the two "every other value" rows refuse the values other rows own. -/

theorem test_wf_refuses_li62 : (Instr.liOctets 62).wellFormed = false := by decide
theorem test_wf_refuses_li63 : (Instr.liOctets 63).wellFormed = false := by decide
theorem test_wf_refuses_ksg1 : (Instr.ksgUnsupported 1).wellFormed = false := by decide
theorem test_wf_refuses_ksg2 : (Instr.ksgUnsupported 2).wellFormed = false := by decide
theorem test_wf_refuses_ksg3 : (Instr.ksgUnsupported 3).wellFormed = false := by decide
/-- `DecodeEncodeAgree`: well-formed terms at the edges of the two rows. -/
theorem wit_DecodeEncodeAgree : (Instr.liOctets 0).wellFormed = true ∧ (Instr.liOctets 61).wellFormed = true ∧
    (Instr.ksgUnsupported 0).wellFormed = true ∧ (Instr.ksgUnsupported 4).wellFormed = true ∧
    (Instr.ksgUnsupported 255).wellFormed = true ∧ Instr.schHu.wellFormed = true := by decide

/-! Decoding: words written out from the tables of 30_encoding. -/

theorem test_decode_nop : decode (.command 0x000000000000000000000000000000000000000000000000) = .instr .nop := by decide +kernel
theorem test_decode_reset : decode (.command 0x010000000000000000000000000000000000000000000000) = .instr .reset := by decide +kernel
theorem test_decode_push_bit1 : decode (.command 0x020000000000000000000000000000000000000000000001) = .instr (.pushBit true) := by decide +kernel
theorem test_decode_push_bit0 : decode (.command 0x020000000000000000000000000000000000000000000000) = .instr (.pushBit false) := by decide +kernel
theorem test_decode_load_net : decode (.command 0x100106000102020000000000000000000000000000000000) = .instr (.loadNet 262 1 2 2) := by decide +kernel
theorem test_decode_load_key : decode (.command 0x1101060001FFFFFFFF04FFFFFFFF0123456789ABCDEF0123) = .instr (.loadKey 262 1 4294967295 4 4294967295 0x0123456789ABCDEF0123) := by decide +kernel
theorem test_decode_tsq_sync : decode (.training (bitsN 38 0b11000001100111001110100111000001100111)) = .instr .tsqSync := by decide +kernel
theorem test_decode_tsq_norm1 : decode (.training (bitsN 22 0b1101000011101001110100)) = .instr .tsqNorm1 := by decide +kernel
theorem test_decode_tsq_norm2 : decode (.training (bitsN 22 0b0111101001000011011110)) = .instr .tsqNorm2 := by decide +kernel
theorem test_decode_sb1 : decode (.subBlock 0) = .instr .sb1 := by decide +kernel
theorem test_decode_sb2 : decode (.subBlock 1) = .instr .sb2 := by decide +kernel
theorem test_decode_ndb : decode (.subBlock 2) = .instr .ndb := by decide +kernel
theorem test_decode_bbk : decode (.subBlock 3) = .instr .bbk := by decide +kernel
theorem test_decode_schHu : decode (.subBlock 4) = .instr .schHu := by decide +kernel
theorem test_decode_schF : decode (.subBlock 5) = .instr .schF := by decide +kernel
theorem test_decode_macResource : decode (.pdu [false, false]) = .instr .macResource := by decide +kernel
theorem test_decode_macFrag : decode (.pdu [false, true, false]) = .instr .macFrag := by decide +kernel
theorem test_decode_macEnd : decode (.pdu [false, true, true]) = .instr .macEnd := by decide +kernel
theorem test_decode_broadcastSysinfo : decode (.pdu [true, false, false, false]) = .instr .broadcastSysinfo := by decide +kernel
theorem test_decode_broadcastAccessDefine : decode (.pdu [true, false, false, true]) = .instr .broadcastAccessDefine := by decide +kernel
theorem test_decode_macSupplementary : decode (.pdu [true, true]) = .instr .macSupplementary := by decide +kernel
theorem test_decode_broadcastOther10 : decode (.pdu [true, false, true, false]) = .instr (.broadcastOther false) := by decide +kernel
theorem test_decode_broadcastOther11 : decode (.pdu [true, false, true, true]) = .instr (.broadcastOther true) := by decide +kernel
theorem test_decode_liOctets : decode (.lengthInd 0b000110) = .instr (.liOctets 6) := by decide +kernel
theorem test_decode_liSecondHalfStolen : decode (.lengthInd 0b111110) = .instr .liSecondHalfStolen := by decide +kernel
theorem test_decode_liStartOfFragmentation : decode (.lengthInd 0b111111) = .instr .liStartOfFragmentation := by decide +kernel
theorem test_decode_ksgTea1 : decode (.ksg 0x01) = .instr .ksgTea1 := by decide +kernel
theorem test_decode_ksgTea2 : decode (.ksg 0x02) = .instr .ksgTea2 := by decide +kernel
theorem test_decode_ksgTea3 : decode (.ksg 0x03) = .instr .ksgTea3 := by decide +kernel
theorem test_decode_ksgUnsupported : decode (.ksg 0x04) = .instr (.ksgUnsupported 4) := by decide +kernel

/-- `NORM_3` (30_encoding R84, vector D7) selects no operation. -/
theorem test_decode_norm3_rejected : decode (.training (bitsN 22 0b1011011100000110101101)) = .reject .noTrainingSequence := by
  decide +kernel
/-- Vectors X3 and X5: must-be-zero bits. -/
theorem test_decode_must_be_zero : decode (.command 0x000000000000000000000000000000000000000000000001) = .reject .mustBeZero ∧
    decode (.command 0x020000000000000000000000000000000000000000000002) = .reject .mustBeZero ∧
    decode (.command 0x010000000000000000000010000000000000000000000000) = .reject .mustBeZero ∧
    decode (.command 0x100001000203010000000000000000000000000000000001) = .reject .mustBeZero := by decide +kernel
/-- Table words: a length indication, a PDU prefix, and a word no row lists. -/
theorem test_table_words : decodeTableWord 6 62 = some .liSecondHalfStolen ∧ decodeTableWord 2 3 = some .macSupplementary ∧
    decodeTableWord 3 7 = none ∧ decodeTableWord 8 255 = some (.ksgUnsupported 255) := by decide +kernel

/-! Vectors of the codecs and of time. -/

/-- Vectors K1, K2, K3 of the CRC. -/
theorem test_crc : crc16 0xFFFF (bitsN 8 0b10110010) = 0x6669 ∧
    crcAppend (bitsN 8 0b10110010) = bitsN 24 0b101100101001100110010110 ∧
    crcOk (bitsN 24 0b101100100110011001101001) = false := by decide +kernel
/-- Vectors L2, L4 of the scrambler. -/
theorem test_scrambler : scrambleSeq 1 40 = bitsN 40 0b1101010101011000101000010001001101111111 ∧
    scrambInit 1025 16386 67 = 0x0040020F := by decide +kernel
/-- Vectors V1, V4 of the convolutional code and its decoder. -/
theorem test_viterbi : convEncode (bitsN 8 0b10110000) = bitsN 32 0b11111011100100010010001110101111 ∧
    viterbiCch ((bitsN 32 0b11111011100100010010001110101111).map soft) = bitsN 8 0b10110000 := by decide +kernel
/-- Vectors V2, V3 of puncturing. -/
theorem test_puncture : punctIndex Config.punct23 432 = 1149 ∧ punctIndex Config.punct13 13 = 17 ∧
    puncture Config.punct23 (bitsN 32 0b11111011100100010010001110101111) 12 = bitsN 12 0b111100000101 := by decide +kernel
/-- Vectors M1, M2, M15 of the time. -/
theorem test_time : ({ hn := 7, mn := 60, fn := 18, tn := 4, sn := 1 } : Time).addTn 1 =
      { hn := 7, mn := 1, fn := 1, tn := 1, sn := 1 } ∧
    ({ hn := 7, mn := 60, fn := 18, tn := 4, sn := 255 } : Time).addSn 1 = { hn := 7, mn := 1, fn := 1, tn := 1, sn := 1 } ∧
    Time.reset.addSn 1000 = { hn := 0, mn := 1, fn := 1, tn := 4, sn := 236 } := by decide +kernel
/-- Vector Q1: bit 15 of the hyperframe number is dropped. -/
theorem test_build_iv : buildIv { hn := 0, mn := 33, fn := 5, tn := 2, sn := 1 } 0x8001 0 = 0x00003095 := by decide +kernel
/-- Vector H1: the channel allocation length, and one bit less. -/
theorem test_chan_alloc : Config.chanAllocLen (bitsN 25 0b0010000100001111101001001) = some 25 ∧
    Config.chanAllocLen (bitsN 24 0b001000010000111110100100) = none := by decide +kernel
/-- Vectors D3, D5 of the detector. -/
theorem test_detector : findTrainSeq (bitsN 22 0b1101000011101001110100 ++ bitsN 22 0b0111101001000011011110)
      [.sync, .norm1, .norm2] = some (.norm1, 0) ∧
    findTrainSeq (bitsN 37 0b1100000110011100111010011100000110011) [.sync] = none := by decide +kernel

/-! One step of an instruction. -/

/-- `PUSH_BIT` from reset (46_host_commands R272): locked, one bit, still unlocked. -/
theorem test_push_bit : (after (step (placeWord (.command 0x020000000000000000000000000000000000000000000001) State.reset))
      State.reset).sync = { SyncRegs.reset with bitbuf := [true] } ∧
    (after (exec (.pushBit true) State.reset) State.reset).db.locked = true := by decide +kernel
/-- Vector D9: the 38th bit pushes the oldest one out. -/
theorem test_push_bit_trims : (after (exec (.pushBit true) (atSync .unlocked (List.replicate 37 true))) State.reset).sync =
    { SyncRegs.reset with bitbuf := List.replicate 37 true, startBitnum := 1 } := by decide +kernel
/-- Vectors X2, X14: illegal command words. -/
theorem test_illegal : (after (step (placeWord (.command 0x030000000000000000000000000000000000000000000000) State.reset))
      State.reset).events = [.diag .eCmdIllegal 3] ∧
    (after (step (placeWord (.command (BitVec.allOnes 192)) State.reset)) State.reset).events = [.diag .eCmdIllegal 0xFF] := by
  decide +kernel
/-- Vectors X12, X13: loads are refused once the tables are locked. -/
theorem test_load_locked : (after (exec (.loadNet 1 1 1 1) (keyed 1 State.reset)) State.reset).events = [.diag .eDbLocked 0x10] ∧
    (after (exec (.loadKey 1 1 1 1 1 1) (keyed 1 State.reset)) State.reset).events = [.diag .eDbLocked 0x11] := by
  decide +kernel
/-- Vector X7: the entry of the example of 46_host_commands R274. -/
theorem test_load_net : (after (exec (.loadNet 262 1 2 2) State.reset) State.reset).db.nets =
    [{ mcc := 262, mnc := 1, ksgType := 2, securityClass := 2 }] := by
  simp [exec, execLoadNet, State.reset, Db.reset, State.nNets, Config.netCap, after, State.appendNet, State.withDb]
/-- Vector X9: the entry of the example of 46_host_commands R275. -/
theorem test_load_key : (after (exec (.loadKey 262 1 4294967295 4 4294967295 0x0123456789ABCDEF0123) State.reset)
      State.reset).db.keys =
    [{ mcc := 262, mnc := 1, addr := 4294967295, keyType := 4, keyNum := 4294967295, key := 0x0123456789ABCDEF0123,
       index := 0 }] := by
  simp [exec, execLoadKey, State.reset, Db.reset, State.nKeys, Config.keyCap, after, State.appendKey, State.withDb]
/-- Vector X15: reset after a bit. -/
theorem test_reset : after (exec .reset (keyed 1 (atSync .locked [true]))) State.reset = State.reset := by decide +kernel

/-- The example of 43_splitter_lower_mac R196: BBK in frame 1 sets marker 9. -/
theorem test_bbk : (after (exec .bbk (onPdu (scramble (bitsN 30 0x12400000) 0x1EC1C817) inCell)) State.reset).mac.isTraffic = 9 ∧
    (after (exec .bbk (onPdu (scramble (bitsN 30 0x12400000) 0x1EC1C817) inCell)) State.reset).events =
      [.blockInd { time := Time.reset, blkNum := 0, subblock := .bbk } .bbk true (bitsN 14 0x1240)] := by decide +kernel
/-- Vector W1, W2: fill bits. -/
theorem test_fill_count : fillCount [true, false, false, false] = some 4 ∧ fillCount [false, true, true, false] = some 2 ∧
    fillCount [false] = none ∧ fillCount [] = none := by decide
/-- The first PDU of vector U1 through MAC_RESOURCE: 32 bits, layer 2 at 29. -/
theorem test_mac_resource : (after (exec .macResource (onPdu (bitsN 124 0x22FFC500000000000000000000000) inCell)) State.reset).events =
    [.sduInd { snap := (onPdu [] inCell).work.snap, kind := .resource, crcOk := true, encMode := 0, decrypted := false,
                addr := some { type := 2, ssi := 0, eventLabel := 1023, usageMarker := 0 },
                bits := bitsN 32 0x22FFC5, l2Off := 29 }] := by decide +kernel
/-- The block of vector U17 through LI_OCTETS: elements skipped, twelve fill bits stripped. -/
theorem test_li_octets : (after (exec (.liOctets 12) (onPdu (bitsN 124 0x2061000077CD6A421F49D8000000000) inCell)) State.reset).events =
    [.sduInd { snap := (onPdu [] inCell).work.snap, kind := .resource, crcOk := true, encMode := 0, decrypted := false,
                addr := none, bits := bitsN 84 0x2061000077CD6A421F49D, l2Off := 80 }] := by decide +kernel
/-- Vector U15: the second half slot is stolen. -/
theorem test_li_second_half : (after (exec .macResource (onPdu (bitsN 124 0x1F1000042180000000000000000000) inCell))
    State.reset).mac.blk2Stolen = true := by decide +kernel
/-- Vector U10 without a key: a start of fragmentation that cannot be decrypted discards the stale slot. -/
theorem test_li_start_fragmentation :
    (after (exec .macResource (onPdu (bitsN 124 0xDF90000071FFFFFFFFFFFFFFFFFFFF)
      { inCell with frag := { FragFile.reset with f3 := openSlot } })) State.reset).events =
      [.diag .eFragReentry 3, .diag .eNoCrypto 3] := by decide +kernel
/-- Vectors U6, U7: MAC_FRAG and MAC_END without a slot. -/
theorem test_mac_frag_end : (after (exec .macFrag (onPdu (bitsN 124 0x4FFFFF0000000000000000000000000) inCell)) State.reset).events =
      [.diag .wFragNoSlot 3] ∧
    (after (exec .macEnd (onPdu (bitsN 124 0x6067FF0000000000000000000000000) inCell)) State.reset).events =
      [.diag .wFragNoSlot 3] := by decide +kernel
/-- Vector U18: SYSINFO feeds time and crypto state. -/
theorem test_sysinfo : (after (exec .broadcastSysinfo (onPdu (bitsN 124 0x83E94000000000700000004D0000000) inCell)) State.reset).cs.cn = some 1001 ∧
    (after (exec .broadcastSysinfo (onPdu (bitsN 124 0x83E94000000000700000004D0000000) inCell)) State.reset).time.hn = 7 := by decide +kernel
/-- Vector U13: ACCESS-DEFINE is consumed. -/
theorem test_access_define : (after (exec .broadcastAccessDefine (onPdu (bitsN 124 0x9FFFFFFFC0000000000000000000000) inCell)) State.reset).events = [] ∧
    (after (exec (.broadcastOther true) (onPdu (bitsN 124 0xB000000000000000000000000000000) inCell)) State.reset).events = [] := by decide +kernel
/-- Vector U14: MAC_SUPPLEMENTARY forwards 124 bits with layer 2 at 18. -/
theorem test_supplementary : (after (exec .macSupplementary (onPdu (bitsN 124 0xC405280000000000000000000000000) inCell))
      State.reset).events =
    [.sduInd { snap := (onPdu [] inCell).work.snap, kind := .suppl, crcOk := true, encMode := 1, decrypted := false,
                addr := none, bits := bitsN 124 0xC405280000000000000000000000000, l2Off := 18 }] := by
  decide +kernel
/-- Vectors Q2: the first matching key of the right type. -/
theorem test_lookup : getKsgKey (keyed 1 State.reset).db (some 0) (some 9) = some 0 ∧
    getKsgKey (keyed 1 State.reset).db (some 0) (some 7) = none ∧
    lookupNetwork (keyed 1 State.reset).db (some 262) (some 2) = none := by decide +kernel
/-- Vector U11: an unsupported generator reports itself and leaves no keystream. -/
theorem test_ksg_unsupported : (after (exec (.ksgUnsupported 4) State.reset) State.reset).events =
    [.diag .eKsgUnsupported 4] := by decide +kernel
/-- The generators fill 432 bits whatever they produce. -/
theorem test_ksg_tea : (after (exec .ksgTea1 State.reset) State.reset).work.ks.length = 432 ∧
    (after (exec .ksgTea2 State.reset) State.reset).work.ks.length = 432 ∧
    (after (exec .ksgTea3 State.reset) State.reset).work.ks.length = 432 := by decide +kernel

/-! Witnesses: states that meet the hypotheses of the obligations, at the edges of their clauses. -/

/-- `CommandWordHasOneMeaning`. -/
theorem wit_CommandWordHasOneMeaning : decode (.command 0x020000000000000000000000000000000000000000000001) =
    .instr (.pushBit true) := by decide +kernel

/-- The word is not one of 30_encoding R81. -/
def illegalWord (w : CmdWord) : Bool :=
  !(((w.extractLsb' 184 8).toNat == 0 && (w.extractLsb' 0 184).toNat == 0) ||
    ((w.extractLsb' 184 8).toNat == 1 && (w.extractLsb' 0 184).toNat == 0) ||
    ((w.extractLsb' 184 8).toNat == 2 && (w.extractLsb' 1 183).toNat == 0) ||
    ((w.extractLsb' 184 8).toNat == 16 && (w.extractLsb' 0 136).toNat == 0) || (w.extractLsb' 184 8).toNat == 17)

/-- `IllegalCommandReported`: the opcode next to a legal one, legal ones with a must-be-zero bit set; on the port. -/
theorem wit_IllegalCommandReported : illegalWord 0x030000000000000000000000000000000000000000000000 = true ∧
    illegalWord 0x020000000000000000000000000000000000000000000002 = true ∧
    illegalWord 0x100001000203010000000000000000000000000000000001 = true ∧
    illegalWord 0x120000000000000000000000000000000000000000000000 = true ∧
    (placeWord (.command 0x03) State.reset).port = [.command 0x03] := by
  refine ⟨by decide +kernel, by decide +kernel, by decide +kernel, by decide +kernel, rfl⟩

/-- `StepRunsDecodedWord`, `NoCommandStopsTheCore`: a word on the port, and an empty port. -/
theorem wit_StepRunsDecodedWord : (placeWord (.lengthInd 4) State.reset).port = .lengthInd 4 :: [] ∧
    decode (.lengthInd 4) = .instr (.liOctets 4) ∧ State.reset.port = [] ∧
    (placeWord (.command 0) State.reset).port = .command 0 :: [] := by decide +kernel

/-- A clear MAC-RESOURCE of 32 bits to event label 1023, the rest of its block zero (vector U1). -/
def res32 : Bits := bitsN 124 0x22FFC500000000000000000000000

/-- `PipelineSelectsByEncoding`: a PDU of the least length, a header, a slot of the least length. -/
theorem wit_PipelineSelectsByEncoding : (onPdu (List.replicate 16 false) State.reset).hasPdu = true ∧
    (onPdu res32 State.reset).hasResHeader = true ∧
    (atSync .locked (List.replicate 510 false)).hasSlot = true ∧
    Searched .sync ∧ Searched .norm1 ∧ Searched .norm2 ∧ (Config.tsq .norm2).isSome = true := by
  refine ⟨by decide +kernel, by decide +kernel, by decide +kernel, .inl rfl, .inr (.inl rfl), .inr (.inr rfl), rfl⟩

/-- `LoadsAppendEntries`: locked tables, a full table, and one with room. -/
theorem wit_LoadsAppendEntries : (keyed 1 State.reset).db.locked = true ∧
    (∃ s : State, s.db.locked = false ∧ s.db.nets.length = Config.netCap) ∧
    (∃ s : State, s.db.locked = false ∧ s.db.keys.length = Config.keyCap) ∧
    State.reset.db.locked = false ∧ State.reset.db.nets.length ≠ Config.netCap ∧
    State.reset.db.keys.length ≠ Config.keyCap := by
  refine ⟨rfl, ⟨State.reset.withDb { Db.reset with nets := List.replicate Config.netCap default }, rfl, by simp [State.withDb]⟩,
    ⟨State.reset.withDb { Db.reset with keys := List.replicate Config.keyCap default }, rfl, by simp [State.withDb]⟩, rfl, ?_, ?_⟩ <;>
    simp [State.reset, Db.reset, Config.netCap, Config.keyCap]

/-- `LockedTablesReadOnly`, `CellIdentityKept`, `EventsOnlyGrow`: instructions with a next state, on locked tables and in
a valid cell. -/
theorem wit_LockedTablesReadOnly : isNext (exec (.pushBit true) State.reset) = true ∧
    isNext (exec (.loadNet 1 1 1 1) (keyed 1 inCell)) = true ∧ (keyed 1 inCell).db.locked = true ∧
    isNext (exec .reset State.reset) = true ∧ inCell.cell.valid = true ∧
    inCell.cell.scrambInit = scrambInit inCell.cell.mcc.toNat inCell.cell.mnc.toNat inCell.cell.cc.toNat := by
  decide +kernel

/-! Slots and the detector. -/

/-- The patterns searched for. -/
def patterns : List Bits := [TrainType.sync, TrainType.norm1, TrainType.norm2].map fun ty => (Config.tsq ty).getD []

/-- No pattern stands in `v` before offset `off`. -/
def noneBefore (v : Bits) (off : Nat) : Bool := (List.range off).all fun k => patterns.all fun p => slice v k p.length != p

theorem stands_pattern {ty : TrainType} {v : Bits} {k : Nat} (hs : Searched ty) (h : StandsAt ty v k) :
    ∃ p ∈ patterns, slice v k p.length = p := by
  obtain ⟨p, hp, h⟩ := h
  refine ⟨p, ?_, h⟩
  rcases hs with rfl | rfl | rfl <;> simp [patterns, hp]

theorem not_stands {ty : TrainType} {v : Bits} {off k : Nat} (h : noneBefore v off = true) (hk : k < off)
    (hs : Searched ty) : ¬ StandsAt ty v k := by
  intro h'
  obtain ⟨p, hp, he⟩ := stands_pattern hs h'
  simp only [noneBefore, List.all_eq_true, List.mem_range, bne_iff_ne] at h
  exact h k hk p hp he

/-- A slot whose first match is `ty` at `off`. -/
theorem first_match {ty : TrainType} {v pat : Bits} {off : Nat} (hs : Searched ty) (hp : Config.tsq ty = some pat)
    (h : slice v off pat.length = pat) (hn : noneBefore v off = true) : FirstMatch ty v off :=
  ⟨hs, ⟨pat, hp, h⟩, fun _ hk _ hs' => not_stands hn hk hs'⟩

/-- No pattern stands in a vector of zeros. -/
theorem zeros_no_match (n : Nat) (ty : TrainType) (hs : Searched ty) (k : Nat) :
    ¬ StandsAt ty (List.replicate n false) k := by
  intro h
  obtain ⟨p, hp, he⟩ := stands_pattern hs h
  have ht : true ∈ p := (by decide : ∀ p ∈ patterns, true ∈ p) p hp
  rw [← he] at ht
  simp [slice] at ht

/-- The pattern of a searched type. -/
def pat (ty : TrainType) : Bits := (Config.tsq ty).getD []

/-- `PushBitWhileUnlocked`: 38 bits without the pattern, and the pattern completed at offset 0 by its last bit. -/
theorem wit_PushBitWhileUnlocked :
    (∀ off, ¬ StandsAt .sync ((atSync .unlocked (List.replicate 37 false)).sync.bitbuf ++ [false]) off) ∧
    StandsAt .sync ((atSync .unlocked ((pat .sync).take 37)).sync.bitbuf ++ [true]) 0 := by
  refine ⟨fun off => ?_, ⟨pat .sync, rfl, by decide +kernel⟩⟩
  have h := zeros_no_match 38 .sync (.inl rfl) off
  exact h

theorem know_ok (n : Nat) (h1 : 38 ≤ n) (h2 : n ≤ 295) :
    ((atSync .knowFrameStart (List.replicate n false)).setNextFrameStart 296).sync.Ok := by
  simpa [SyncRegs.Ok, State.setNextFrameStart, State.withSync, atSync, SyncRegs.reset] using ⟨h1, h2⟩

/-- `PushBitUpToSlotEnd`: one bit before the boundary, at it, and one bit before the end of a slot. -/
theorem wit_PushBitUpToSlotEnd :
    let s : State := (atSync .knowFrameStart (List.replicate 294 false)).setNextFrameStart 296
    let t : State := (atSync .knowFrameStart (List.replicate 295 false)).setNextFrameStart 296
    (s.sync.state = .knowFrameStart ∧ s.sync.startBitnum + (s.sync.bitbuf ++ [true]).length < s.sync.nextFrameStart) ∧
    (t.sync.Ok ∧ t.sync.nextFrameStart ≤ t.sync.startBitnum + (t.sync.bitbuf ++ [true]).length) ∧
    (List.replicate 508 false ++ [true]).length < 510 := by
  refine ⟨⟨rfl, by decide +kernel⟩, ⟨?_, by decide +kernel⟩, by decide +kernel⟩
  exact know_ok 295 (by decide) (by decide)

/-- The slots of the next two theorems, each completed by the bit pushed in `LOCKED`. -/
theorem slots_completed : ∀ v ∈ [slotWith 0 (pat .sync), slotWith 213 (pat .sync), slotWith 245 (pat .norm1),
      slotWith 214 (pat .sync), slotWith 244 (pat .norm1), slotWith 244 (pat .norm2)],
    (atSync .locked (v.take 509)).sync.state = .locked ∧ 510 ≤ (atSync .locked (v.take 509)).sync.bitbuf.length + 1 ∧
    ((atSync .locked (v.take 509)).sync.bitbuf ++ [false]).take 510 = v := by decide +kernel

/-- `SlotLossDropsSlot`, `SyncStateTransitions`: a slot of zeros has no match; one with the SYNC pattern at its very
start, or one bit before its place, has a misplaced one. -/
theorem wit_SlotLossDropsSlot :
    (∀ ty off, ¬ FirstMatch ty (((atSync .locked (List.replicate 509 false)).sync.bitbuf ++ [false]).take 510) off) ∧
    FirstMatch .sync (slotWith 0 (pat .sync)) 0 ∧ ¬ AtExpected .sync 0 ∧
    FirstMatch .sync (slotWith 213 (pat .sync)) 213 ∧ ¬ AtExpected .sync 213 ∧
    FirstMatch .norm1 (slotWith 245 (pat .norm1)) 245 ∧ ¬ AtExpected .norm1 245 := by
  refine ⟨fun ty off h => ?_, first_match (.inl rfl) rfl (by decide +kernel) (by decide +kernel), ?_,
    first_match (.inl rfl) rfl (by decide +kernel) (by decide +kernel), ?_,
    first_match (.inr (.inl rfl)) rfl (by decide +kernel) (by decide +kernel), ?_⟩
  · have e : ((atSync .locked (List.replicate 509 false)).sync.bitbuf ++ [false]).take 510 = List.replicate 510 false := by
      decide +kernel
    rw [e] at h
    exact zeros_no_match 510 ty h.1 off h.2.1
  all_goals simp [AtExpected]

/-- `SlotDeliveredRunsBurst`, `SyncStateTransitions`: each type in its place. -/
theorem wit_SlotDeliveredRunsBurst :
    (FirstMatch .sync (slotWith 214 (pat .sync)) 214 ∧ AtExpected .sync 214) ∧
    (FirstMatch .norm1 (slotWith 244 (pat .norm1)) 244 ∧ AtExpected .norm1 244) ∧
    (FirstMatch .norm2 (slotWith 244 (pat .norm2)) 244 ∧ AtExpected .norm2 244) ∧
    SlotDelivered (((atSync .locked ((slotWith 214 (pat .sync)).take 509)).sync.bitbuf ++ [false]).take 510) := by
  have h := first_match (ty := .sync) (v := slotWith 214 (pat .sync)) (.inl rfl) rfl (by decide +kernel)
    (off := 214) (by decide +kernel)
  refine ⟨⟨h, .inl ⟨rfl, rfl⟩⟩,
    ⟨first_match (.inr (.inl rfl)) rfl (by decide +kernel) (by decide +kernel), .inr ⟨.inl rfl, rfl⟩⟩,
    ⟨first_match (.inr (.inr rfl)) rfl (by decide +kernel) (by decide +kernel), .inr ⟨.inr rfl, rfl⟩⟩,
    .sync, 214, ?_, .inl ⟨rfl, rfl⟩⟩
  have e : ((atSync .locked ((slotWith 214 (pat .sync)).take 509)).sync.bitbuf ++ [false]).take 510 =
      slotWith 214 (pat .sync) := by decide +kernel
  rw [e]
  exact h

/-- `SyncStateTransitions`: an instruction with a next state for each of its three clauses. -/
theorem wit_SyncStateTransitions : isNext (exec .reset State.reset) = true ∧ isNext (exec .nop State.reset) = true ∧
    isNext (exec (.pushBit true) State.reset) = true ∧ State.reset.sync.state = .unlocked := by decide +kernel

/-! Invariants. -/

/-- The reset state with a bit to push. -/
def pushing : State := State.reset.withPort [.command 0x020000000000000000000000000000000000000000000001]

/-- `SynchronizerInvariantKept`, `MemoryFormKept`: the edges 38 and 295 of the bit buffer and 509 of a locked slot. -/
theorem wit_SynchronizerInvariantKept : isNext (step pushing) = true ∧ pushing.sync.Ok ∧
    ((atSync .knowFrameStart (List.replicate 38 false)).setNextFrameStart 296).sync.Ok ∧
    ((atSync .knowFrameStart (List.replicate 295 false)).setNextFrameStart 296).sync.Ok ∧
    (atSync .locked (List.replicate 509 false)).sync.Ok := by
  refine ⟨by decide +kernel, ?_, know_ok 38 (by decide) (by decide), know_ok 295 (by decide) (by decide), ?_⟩
  · simp [SyncRegs.Ok, SyncRegs.reset, pushing, State.withPort, State.reset]
  · have h : ∀ n, n ≤ 509 → (atSync .locked (List.replicate n false)).sync.Ok := by
      intro n hn
      simpa [SyncRegs.Ok, State.withSync, atSync] using hn
    exact h 509 (by decide)

/-- `TimeStaysInRange`, `TimeCarryLaws`, `TimeslotAdvanceNormalizes`: the least and the greatest time. -/
theorem wit_TimeStaysInRange : pushing.time.inRange ∧
    ({ hn := 65535, mn := 60, fn := 18, tn := 4, sn := 255 } : Time).inRange := by decide +kernel

/-- `FragmentSlotInvariantKept`: active slots, at the greatest age too. -/
theorem wit_FragmentSlotInvariantKept :
    ({ FragFile.reset with f1 := openSlot, f4 := { openSlot with age := 5, encrypted := true, key := some 0 } } : FragFile).Ok := by
  simp [FragFile.Ok, FragSlot.Ok, openSlot, FragFile.reset, FragSlot.reset, Config.n203]

/-- `MemoryFormKept`: reset, with a word on the port. -/
theorem wit_MemoryFormKept : pushing.MemoryInv := by
  refine ⟨⟨by decide, ?_, by simp [pushing, State.reset, State.withPort, Db.reset], by
    simp [pushing, State.reset, State.withPort, Db.reset], by rfl⟩, by
    simp [SyncRegs.Ok, SyncRegs.reset, pushing, State.withPort, State.reset]⟩
  simp [pushing, State.reset, State.withPort, FragFile.reset, FragSlot.wf, FragSlot.reset, fitsFragBuf]
  split <;> simp

/-- `CachedLookupsStayFresh`: known crypto fields behind locked tables, and reset. -/
theorem wit_CachedLookupsStayFresh : (keyed 1 pushing).LookupInv ∧ pushing.LookupInv ∧
    isNext (step (keyed 1 pushing)) = true := by
  refine ⟨⟨rfl, ⟨by decide +kernel, by decide +kernel⟩, fun h => ?_⟩,
    ⟨rfl, ⟨by decide +kernel, by decide +kernel⟩, fun _ => rfl⟩, by decide +kernel⟩
  simp [keyed] at h

/-- `HandlersTakeSixteenBits`: a MAC-END of 16 bits without a slot takes exactly 16, after which none are left; a null
PDU takes the whole block. -/
theorem wit_HandlersTakeSixteenBits :
    let s := onPdu (bitsN 16 0b0110000001000000) State.reset
    s.hasPdu = true ∧ (umacPdu s).work.consumed = .bits 16 ∧ 0 + 16 ≤ s.work.pdu.bits.length ∧
    s.work.pdu.bits.length < 16 + 16 ∧
    (umacPdu (onPdu (List.replicate 16 false) State.reset)).work.consumed = .whole := by decide +kernel

/-- `HandlersTakeSixteenBits`: two PDUs in one block run one after another (vector U6's MAC-FRAG behind a MAC-END), the
second at offset 16. -/
theorem test_two_pdus : let s := umacBlock (bitsN 32 0b01100000010000000100000000000000) true (onPdu [] State.reset)
    s.work.pdu.l1 = some 16 ∧ s.events = [.diag .wFragNoSlot 3, .diag .wFragNoSlot 3] := by decide +kernel

/-- `TimeCarryLaws`: `time_add_sn` up to symbol 255. -/
theorem wit_TimeCarryLaws : Time.reset.inRange ∧ Time.reset.sn.toNat + 254 ≤ 255 := by decide +kernel

/-- `UnfedSlotDiesAtSixthBoundary`. -/
theorem wit_UnfedSlotDiesAtSixthBoundary :
    ((inCell.withFrag { FragFile.reset with f3 := openSlot }).fragAt 3).active = true ∧
    ((inCell.withFrag { FragFile.reset with f3 := openSlot }).fragAt 3).age = 0 := by decide +kernel

/-! Codecs. -/

/-- `ScramblerIsInvolution`: the soft form on the example of 41_codecs R129. -/
theorem wit_ScramblerIsInvolution : 13 < (List.replicate 14 (127 : Soft)).length ∧
    scrambleSoft (List.replicate 14 127) 0x1EC1C817 = (bitsN 14 0b01100111111110).map soft := by decide +kernel

/-- `InterleaverRoundTrip`: vector I2's pair, the last element at the first place. -/
theorem wit_InterleaverRoundTrip : Nat.gcd 3 8 = 1 ∧ "abcdefgh".toList.length = 8 ∧ 1 + (3 * 8) % 8 = 1 ∧
    blockInterleave ' ' 8 3 "abcdefgh".toList = "hcfadgbe".toList := by decide +kernel

/-- `DepunctureInvertsPuncture`: both puncturers, the last transmitted bit at the last place of the mother code, with a
transmitted and an erased position. -/
theorem wit_DepunctureInvertsPuncture : punctIndex Config.punct23 1 < punctIndex Config.punct23 2 ∧
    punctIndex Config.punct23 3 ≤ (List.replicate 5 true).length ∧ punctIndex Config.punct23 3 = 4 + 1 ∧
    punctIndex Config.punct13 6 ≤ (List.replicate 7 true).length ∧ punctIndex Config.punct13 6 = 6 + 1 ∧
    (¬ ∃ j, 1 ≤ j ∧ j ≤ 6 ∧ punctIndex Config.punct13 j = 3 + 1) := by
  refine ⟨by decide +kernel, by decide +kernel, by decide +kernel, by decide +kernel, by decide +kernel, ?_⟩
  rintro ⟨j, h1, h6, h⟩
  exact (by decide +kernel : ∀ j ∈ List.range 7, punctIndex Config.punct13 j ≠ 3 + 1) j
    (List.mem_range.mpr (by omega)) h

/-- `ViterbiRecoversNoiseFree`: eight bits, twelve transmitted positions (vector V3). -/
theorem wit_ViterbiRecoversNoiseFree : punctIndex Config.punct23 12 ≤ 4 * 8 ∧ 4 * 8 < punctIndex Config.punct23 13 := by
  decide +kernel

/-- `NoiseFreeBlockRecovered`: the five coded types. -/
theorem wit_NoiseFreeBlockRecovered : [SubBlock.sb1, .sb2, .ndb, .schHu, .schF].all SubBlock.coded = true ∧
    (List.replicate 60 true).length = (Config.blockParams .sb1).n1 ∧
    (List.replicate 268 true).length = (Config.blockParams .schF).n1 := by decide +kernel

/-! Sub-blocks. -/

/-- `BurstsSplitIntoSubBlocks`: the least buffer with a slot. -/
theorem wit_BurstsSplitIntoSubBlocks : 510 ≤ (atSync .locked (List.replicate 510 true)).sync.bitbuf.length := by
  decide +kernel

/-- `BbkSetsTrafficMarker`. -/
theorem wit_BbkSetsTrafficMarker : (onPdu (List.replicate 30 false) inCell).work.pdu.bits.length = 30 ∧
    (onPdu (List.replicate 30 false) inCell).cell.valid = true := by decide +kernel

/-- `SubBlocksWaitForCell`: no valid cell and a block of each length. -/
theorem wit_SubBlocksWaitForCell : ∀ n ∈ [216, 30, 168, 432],
    (onPdu (List.replicate n false) State.reset).work.pdu.bits.length = n ∧
    (onPdu (List.replicate n false) State.reset).cell.valid = false := by decide +kernel

/-- `SignallingBlockGoesToUpperMac`: a valid cell, a block of each length, no traffic. -/
theorem wit_SignallingBlockGoesToUpperMac : ∀ n ∈ [216, 168, 432],
    (onPdu (List.replicate n false) inCell).work.pdu.bits.length = n ∧
    (onPdu (List.replicate n false) inCell).cell.valid = true ∧
    (onPdu (List.replicate n false) inCell).mac.isTraffic = 0 := by decide +kernel

/-- `VoiceBlockDecrypted`: a valid cell with traffic. -/
theorem wit_VoiceBlockDecrypted :
    let s : State := (onPdu (List.replicate 432 false) inCell).withMac { Mac.reset with isTraffic := 9 }
    s.cell.valid = true ∧ s.mac.isTraffic ≠ 0 ∧ s.work.pdu.bits.length = 432 := by decide +kernel

/-! Crypto. -/

/-- A keystream exists for each supported generator, whatever its bytes are. -/
theorem keyed_keystream (kt : BitVec 8) (h : kt = 1 ∨ kt = 2 ∨ kt = 3) (s : State) (t : Time) :
    ((keyed kt s).keystream 0 t).isSome = true := by
  rcases h with rfl | rfl | rfl <;> rfl

/-- `KeystreamFollowsNetwork`, `MacElementDecryption`: with and without a keystream; the greatest skip and length. -/
theorem wit_KeystreamFollowsNetwork : (∃ ks, (keyed 1 State.reset).keystream 0 Time.reset = some ks) ∧
    (∃ ks, (keyed 2 State.reset).keystream 0 Time.reset = some ks) ∧
    (∃ ks, (keyed 3 State.reset).keystream 0 Time.reset = some ks) ∧
    (keyed 4 State.reset).keystream 0 Time.reset = none ∧ State.reset.keystream 0 Time.reset = none ∧
    1 ≤ Time.reset.tn.toNat ∧ (Time.reset.addTn 3).tn.toNat ≤ 4 :=
  ⟨Option.isSome_iff_exists.mp (keyed_keystream 1 (.inl rfl) _ _),
    Option.isSome_iff_exists.mp (keyed_keystream 2 (.inr (.inl rfl)) _ _),
    Option.isSome_iff_exists.mp (keyed_keystream 3 (.inr (.inr rfl)) _ _), rfl, rfl, by decide, by decide⟩

/-- `MacElementDecryption`: bits to the end of the buffer, and no key at all. -/
theorem wit_MacElementDecryption : 43 + 5 ≤ (onPdu (List.replicate 48 true) (keyed 1 State.reset)).work.pdu.bits.length ∧
    216 + 216 ≤ 432 ∧ ((none : Option Nat).bind fun k => (keyed 1 State.reset).keystream k Time.reset) = none := by
  decide +kernel

/-! The upper MAC. -/

/-- `AddressTypeTable`: headers with each address type. -/
theorem wit_AddressTypeTable : ∀ a ∈ [0, 1, 2, 3, 4, 5, 6, 7],
    BitVec.ofNat 3 (uint (slice (bitsN 16 a) 13 3)) = BitVec.ofNat 3 a := by decide +kernel

/-- `BroadcastPdus`: one bit too short, whole without and with the CCK flag. -/
theorem wit_BroadcastPdus :
    let v := fun (n flag : Nat) => onPdu (bitsN n (0x80000000000000000000000000000000 + flag)) State.reset
    ((v 123 0).hasPdu = true ∧ (v 123 0).pduRem < 124) ∧
    (∃ b : Bits, (onPdu b State.reset).hasPdu = true ∧ 124 ≤ (onPdu b State.reset).pduRem ∧
      (onPdu b State.reset).pduRest.getD 43 false = false) ∧
    (∃ b : Bits, (onPdu b State.reset).hasPdu = true ∧ 124 ≤ (onPdu b State.reset).pduRem ∧
      (onPdu b State.reset).pduRest.getD 43 false = true) :=
  ⟨by decide +kernel, ⟨List.replicate 124 false, by decide +kernel⟩, ⟨List.replicate 124 true, by decide +kernel⟩⟩

/-- `ResourceHeaderSelectsLength`: the null PDU, an address one bit too long for its block, and one that just fits. -/
theorem wit_ResourceHeaderSelectsLength :
    let at_ := fun (n a : Nat) => onPdu (bitsN 16 a ++ List.replicate n false) State.reset
    let type := fun (s : State) => BitVec.ofNat 3 (uint (slice s.pduRest 13 3))
    ((at_ 0 0).hasPdu = true ∧ type (at_ 0 0) = 0) ∧
    ((at_ 23 1).hasPdu = true ∧ type (at_ 23 1) ≠ 0 ∧ (at_ 23 1).pduRem < 16 + addrBits (type (at_ 23 1))) ∧
    ((at_ 24 1).hasPdu = true ∧ type (at_ 24 1) ≠ 0 ∧ 16 + addrBits (type (at_ 24 1)) ≤ (at_ 24 1).pduRem) := by
  decide +kernel

/-- `BadLengthEndsBlock`: 0, 35, and a length that is too short for its own header, clipped and not. -/
theorem wit_BadLengthEndsBlock :
    let s := onPdu res32 State.reset
    let r := onPdu (res32.take 28) State.reset
    s.hasResHeader = true ∧ 34 < (35 : BitVec 6).toNat ∧
    (3 : BitVec 6).toNat ≤ 34 ∧ min (8 * (3 : BitVec 6).toNat) s.pduRem < 16 + addrBits (readResHeader s.pduRest).addrType + 3 ∧
    r.hasResHeader = true ∧ r.pduRem < 8 * (4 : BitVec 6).toNat ∧
    min (8 * (4 : BitVec 6).toNat) r.pduRem < 16 + addrBits (readResHeader r.pduRest).addrType + 3 := by decide +kernel

/-- `ResourcePduDelivered`, `FragmentationStartOpensSlot`: clear PDUs of each kind, whole and clipped. -/
theorem wit_ResourcePduDelivered :
    let s := onPdu res32 State.reset
    let r := onPdu (res32.take 30) State.reset
    s.hasResHeader = true ∧ s.lengthCase (.liOctets 4) = some (4, 32, .bits 32, s) ∧
    s.lengthCase .liSecondHalfStolen = some (62, 124, .whole, s) ∧
    s.lengthCase .liStartOfFragmentation = some (63, 124, .whole, s) ∧
    s.Clears s (readResHeader s.pduRest).enc 26 32 false ∧
    resourceElements s.work.pdu.bits (s.pduPos + 16 + addrBits (readResHeader s.pduRest).addrType) (s.pduPos + 32) = some 29 ∧
    (resourceElements s.work.pdu.bits 26 124).isSome = true ∧
    (r.lengthCase (.liOctets 4)).isSome = true ∧ r.pduRem < 32 :=
  ⟨by decide +kernel, by decide +kernel, by decide +kernel, by decide +kernel, .inl ⟨by decide +kernel, rfl, rfl⟩,
    by decide +kernel, by decide +kernel, by decide +kernel, by decide +kernel⟩

/-- An encrypted MAC-RESOURCE of 48 bits (vector U9). -/
def resEnc : Bits := bitsN 124 0x0431000009FF0000000000000000000

/-- A clear MAC-RESOURCE of 32 bits whose slot granting element runs past its end. -/
def resOver : Bits := bitsN 26 0b00000000001000101111111111 ++ [true, false, false, false, false, true]

theorem decrypt_some {k a n : Nat} {s : State} (h : (generateKeystream k s).work.ks ≠ []) :
    ∃ u, decryptMacElement (some k) a n s = (true, u) := by
  simp only [decryptMacElement, if_neg h]
  exact ⟨_, rfl⟩

/-- `ResourcePduDelivered`, `UndeliverablePduDropped`: an encrypted PDU that decrypts, and one that does not. -/
theorem wit_UndeliverablePduDropped :
    (∃ u, (keyed 1 State.reset).Clears u 1 40 48 true) ∧
    (∃ u, decryptMacElement none 40 8 (onPdu resEnc State.reset) = (false, u)) ∧
    (onPdu resEnc State.reset).hasResHeader = true ∧
    ((onPdu resEnc State.reset).lengthCase (.liOctets 6)).isSome = true ∧
    (readResHeader (onPdu resEnc State.reset).pduRest).enc ≠ 0 ∧
    (let s := onPdu resOver State.reset
     s.hasResHeader = true ∧ s.lengthCase (.liOctets 4) = some (4, 32, .bits 32, s) ∧
       s.Clears s (readResHeader s.pduRest).enc 26 32 false ∧ resourceElements s.work.pdu.bits 26 32 = none) := by
  refine ⟨?_, ⟨_, rfl⟩, by decide +kernel, by decide +kernel, by decide +kernel, by decide +kernel, by decide +kernel,
    .inl ⟨by decide +kernel, rfl, rfl⟩, by decide +kernel⟩
  obtain ⟨u, hu⟩ := decrypt_some (k := 0) (a := 40) (n := 8) (s := keyed 1 State.reset) (by
    intro h
    have : (generateKeystream 0 (keyed 1 State.reset)).work.ks.length = 432 := by decide +kernel
    rw [h] at this
    exact absurd this (by decide))
  exact ⟨u, .inr ⟨by decide, hu, rfl⟩⟩

/-- `FragmentSlotOperations`: the first and the last slot. -/
theorem wit_FragmentSlotOperations : ((inCell.withFrag { FragFile.reset with f1 := openSlot }).fragAt 1).active = true ∧
    ((inCell.withFrag { FragFile.reset with f1 := openSlot }).fragAt 4).active = false := by decide +kernel

/-- `MacFragContinuesSlot`, `MacEndFinalizesSlot`: no slot, a clear slot, an encrypted slot with and without a key. -/
theorem wit_MacFragContinuesSlot :
    let v := bitsN 16 0b0100111111111111
    let s := fun (f : FragSlot) => onPdu v (keyed 1 (State.reset.withFrag { FragFile.reset with f3 := f }))
    (s FragSlot.reset).hasPdu = true ∧ ((s FragSlot.reset).fragAt (s FragSlot.reset).snapTn).active = false ∧
    ((s openSlot).fragAt (s openSlot).snapTn).active = true ∧ (s openSlot).FragClears (s openSlot) 4 16 ∧
    (∃ u, (s { openSlot with encrypted := true, key := some 0 }).FragClears u 4 16) ∧
    (∃ u, decryptMacElement ((s { openSlot with encrypted := true, key := none }).fragAt 3).key 4 12
      (s { openSlot with encrypted := true, key := none }) = (false, u)) := by
  refine ⟨by decide +kernel, by decide +kernel, by decide +kernel, .inl ⟨by decide +kernel, rfl⟩, ?_, ⟨_, rfl⟩⟩
  obtain ⟨u, hu⟩ := decrypt_some (k := 0) (a := 4) (n := 12)
    (s := onPdu (bitsN 16 0b0100111111111111)
      (keyed 1 (State.reset.withFrag { FragFile.reset with f3 := { openSlot with encrypted := true, key := some 0 } }))) (by
    intro h
    have : (generateKeystream 0 (onPdu (bitsN 16 0b0100111111111111)
      (keyed 1 (State.reset.withFrag { FragFile.reset with f3 := { openSlot with encrypted := true, key := some 0 } })))).work.ks.length
        = 432 := by decide +kernel
    rw [h] at this
    exact absurd this (by decide))
  exact ⟨u, .inr ⟨by decide +kernel, hu⟩⟩

/-- `MacEndFinalizesSlot`: lengths 0, 35, 1 (too short), 2 (just long enough) and 34; on a clear slot elements that fit
and elements that overrun. -/
theorem wit_MacEndFinalizesSlot :
    let s := fun (x : Nat) => onPdu (bitsN 16 (0b0110000000000000 + x)) (State.reset.withFrag { FragFile.reset with f3 := openSlot })
    let field := fun (x : Nat) => BitVec.ofNat 6 (uint (slice (s x).pduRest 5 6))
    field 0 = 0 ∧ 34 < (field (35 * 32)).toNat ∧
    (field 32 ≠ 0 ∧ min (8 * (field 32).toNat) (s 32).pduRem < 16) ∧
    (field 64 ≠ 0 ∧ 16 ≤ min (8 * (field 64).toNat) (s 64).pduRem ∧ (s 64).hasPdu = true) ∧
    ((field (34 * 32)).toNat ≤ 34 ∧ (s (34 * 32)).pduRem < 8 * (field (34 * 32)).toNat) ∧
    ((s 64).fragAt (s 64).snapTn).active = true ∧ (s 64).FragClears (s 64) 11 16 ∧
    endElements (s 64).work.pdu.bits 11 16 = some 13 ∧
    (s 80).FragClears (s 80) 11 16 ∧ endElements (s 80).work.pdu.bits 11 16 = none ∧
    (onPdu (bitsN 16 0b0110000001000000) State.reset).fragAt 3 = FragSlot.reset := by
  refine ⟨by decide +kernel, by decide +kernel, by decide +kernel, by decide +kernel, by decide +kernel, by decide +kernel,
    .inl ⟨by decide +kernel, rfl⟩, by decide +kernel, .inl ⟨by decide +kernel, rfl⟩, by decide +kernel, by decide +kernel⟩

/-- `SupplementaryForwarded`: 17 bits, 18 bits, and a slot granting flag with 25 and 26 bits. -/
theorem wit_SupplementaryForwarded :
    let s := fun (n : Nat) => onPdu (List.replicate n true) State.reset
    ((s 17).hasPdu = true ∧ (s 17).pduRem < 18) ∧ ((s 25).pduRest.getD 17 false = true ∧ (s 25).pduRem < 26) ∧
    26 ≤ (s 26).pduRem ∧ 18 ≤ (onPdu (List.replicate 18 false) State.reset).pduRem ∧
    (onPdu (List.replicate 18 false) State.reset).pduRest.getD 17 false = false := by decide +kernel

/-- `AbsentOperandStops`: each operand one bit short and just there; a whole block at which no PDU is set; a code no row
lists. -/
theorem wit_AbsentOperandStops :
    let onBits := fun (n : Nat) => onPdu (List.replicate n false) State.reset
    let onSsi := fun (n : Nat) => onPdu (bitsN 16 1 ++ List.replicate n false) State.reset
    let unset := (onBits 124).withWork { (onBits 124).work with pdu := { Pdu.empty with bits := List.replicate 124 false } }
    faultOf (exec .tsqSync (atSync .locked (List.replicate 509 false))) = some .slotAbsent ∧
    (atSync .locked (List.replicate 510 false)).hasSlot = true ∧
    faultOf (exec .sb1 (onBits 119)) = some .subBlockAbsent ∧ faultOf (exec .sb1 (onBits 216)) = some .subBlockAbsent ∧
    (onBits 120).hasSubBlock .sb1 = true ∧
    faultOf (exec .macResource (onBits 15)) = some .pduAbsent ∧ isNext (exec .macResource (onBits 16)) = true ∧
    faultOf (exec .macResource unset) = some .pduAbsent ∧ faultOf (exec (.liOctets 4) unset) = some .headerAbsent ∧
    faultOf (exec (.liOctets 4) (onSsi 23)) = some .headerAbsent ∧ isNext (exec (.liOctets 4) (onSsi 24)) = true ∧
    (placeWord (.subBlock 6) State.reset).port = .subBlock 6 :: [] ∧
    (PortWord.subBlock 6).isCommand = false ∧ decode (.subBlock 6) = .reject .noSubBlockType := by
  decide +kernel

/-- The codes of `SDU_IND.kind` (45_upper_mac R262), and the security class that the status port shows (30_encoding
R103; log 36). -/
theorem test_codes_and_status : [SduKind.resource, .reassembled, .suppl].map SduKind.code = [0, 1, 2] ∧
    (keyed 1 State.reset).status.securityClasses = [Config.securityClass3] := by decide

/-! The tests that evaluate a Viterbi decoding in the kernel. -/

/-- The received SB1 of vector Z1. -/
def z1 : Bits := bitsN 120 0x3CBEB4D3D8F1C04A32F95B37D21B33

/-- An SB1 whose SYNC PDU has frame number 0, coded by 43_splitter_lower_mac's chain run backwards. -/
def z2 : Bits := bitsN 120 314757075291188408639072225988052913

/-- Whether frame and multiframe number of a SYNC PDU are in range (30_encoding R90, 43_splitter_lower_mac R194). -/
def syncInRange (v : Bits) : Bool :=
  let fn := (BitVec.ofNat 5 (uint (slice v 12 5))).toNat
  let mn := (BitVec.ofNat 6 (uint (slice v 17 6))).toNat
  decide ((1 ≤ fn ∧ fn ≤ 18) ∧ (1 ≤ mn ∧ mn ≤ 60))

/-- Whether type-2 bits pass the CRC as `ok` says and, if so, hold a SYNC PDU in range as `range` says. -/
def sync2 (ok range : Bool) (v : Bits) : Bool :=
  crcOk (slice v 0 76) == ok && (!ok || syncInRange (slice v 0 60) == range)

/-- Vector Z1: the whole chain back to the type-2 bits, which pass the CRC and are in range. -/
theorem test_sb1_decode : (fun v => v == bitsN 60 0b000000010100000010000010000000000011110110000011100100000000 ++
    bitsN 20 0b00001001010111110000 && sync2 true true v) (blockType2 .sb1 3 z1) = true := by decide +kernel

theorem sb1_range : sync2 true false (blockType2 .sb1 3 z2) = true := by decide +kernel

theorem sb1_fail : sync2 false false (blockType2 .sb1 3 (List.replicate 120 false)) = true := by decide +kernel

/-- The type-1 bits of an SB1 and its CRC result, from what `sync2` says of its type-2 bits. -/
theorem sync2_spec {ok range : Bool} {v : Bits} (h : sync2 ok range (blockType2 .sb1 3 v) = true) :
    blockOk .sb1 3 v = ok ∧ (ok = true → syncInRange (blockType1 .sb1 3 v) = range) := by
  simp only [sync2, Bool.and_eq_true, Bool.or_eq_true, beq_iff_eq, Bool.not_eq_true'] at h
  refine ⟨h.1, fun ho => ?_⟩
  rcases h.2 with h' | h'
  · simp [ho] at h'
  · exact h'

/-- `Sb1CommitsOnlyOnGoodCrc`: a block that fails the CRC, one that passes it out of range, one that passes it in range. -/
theorem wit_Sb1CommitsOnlyOnGoodCrc :
    blockOk .sb1 3 (onPdu (List.replicate 120 false) State.reset).work.pdu.bits = false ∧
    (blockOk .sb1 3 (onPdu z2 State.reset).work.pdu.bits = true ∧
      syncInRange (blockType1 .sb1 3 (onPdu z2 State.reset).work.pdu.bits) = false) ∧
    (blockOk .sb1 3 (onPdu z1 State.reset).work.pdu.bits = true ∧
      syncInRange (blockType1 .sb1 3 (onPdu z1 State.reset).work.pdu.bits) = true) ∧
    (onPdu z1 State.reset).work.pdu.bits.length = 120 := by
  have h1 : sync2 true true (blockType2 .sb1 3 z1) = true := by
    have h := test_sb1_decode
    simp only [Bool.and_eq_true] at h
    exact h.2
  refine ⟨(sync2_spec sb1_fail).1, ⟨(sync2_spec sb1_range).1, (sync2_spec sb1_range).2 rfl⟩,
    ⟨(sync2_spec h1).1, (sync2_spec h1).2 rfl⟩, by decide +kernel⟩

end Sys2Proof.Tests
end

section
/-! PROOFS. Scope (00_scope R9, R13, R14; 30_encoding R107): what every row of `exec` can answer, and from it that events
only grow (O26) and where the model stops of its own choice (O60). -/

namespace Sys2Proof.Machine

/-! What a row can answer. -/

/-- A row whose meaning stops unless its operand is there, and otherwise preserves what the pipeline preserves. -/
theorem guarded_cases {i : Instr} {s u : State} {b : Bool} {f : Fault}
    (h : exec i s = if b then .next u else .fault f) (hu : s.Preserves u) :
    (∃ t, exec i s = .next t ∧ s.Preserves t) ∨ ∃ g, exec i s = .fault g := by
  cases b with
  | true => exact .inl ⟨u, h, hu⟩
  | false => exact .inr ⟨f, h⟩

/-- A row inside the pipeline stops with a fault, or goes on to a state that preserves what the pipeline preserves; it is
never refused. -/
theorem exec_pipeline_cases {i : Instr} (hi : Laws.rowSpace i ≠ .command) (s : State) :
    (∃ t, exec i s = .next t ∧ s.Preserves t) ∨ ∃ f, exec i s = .fault f := by
  cases i with
  | nop | reset | pushBit | loadNet | loadKey => exact absurd rfl hi
  | tsqSync => exact guarded_cases rfl (burstSync_preserves _ s)
  | tsqNorm1 => exact guarded_cases rfl (burstNorm1_preserves _ s)
  | tsqNorm2 => exact guarded_cases rfl (burstNorm2_preserves _ s)
  | sb1 => exact guarded_cases rfl (lowerMac_preserves .sb1 _ _ s)
  | sb2 => exact guarded_cases rfl (lowerMac_preserves .sb2 _ _ s)
  | ndb => exact guarded_cases rfl (lowerMac_preserves .ndb _ _ s)
  | bbk => exact guarded_cases rfl (lowerMac_preserves .bbk _ _ s)
  | schHu => exact guarded_cases rfl (lowerMac_preserves .schHu _ _ s)
  | schF => exact guarded_cases rfl (lowerMac_preserves .schF _ _ s)
  | macResource => exact guarded_cases rfl (macResource_preserves s)
  | macFrag => exact guarded_cases rfl (macFrag_preserves s)
  | macEnd => exact guarded_cases rfl (macEnd_preserves s)
  | broadcastSysinfo => exact guarded_cases rfl (broadcastSysinfo_preserves s)
  | broadcastAccessDefine => exact guarded_cases rfl (s.consume_preserves _)
  | broadcastOther => exact guarded_cases rfl (s.consume_preserves _)
  | macSupplementary => exact guarded_cases rfl (macSupplementary_preserves s)
  | liOctets l => exact guarded_cases rfl (liOctets_preserves l s)
  | liSecondHalfStolen => exact guarded_cases rfl (liSecondHalfStolen_preserves s)
  | liStartOfFragmentation => exact guarded_cases rfl (liStartOfFragmentation_preserves s)
  | ksgTea1 | ksgTea2 | ksgTea3 => exact .inl ⟨_, rfl, s.withWork_preserves _⟩
  | ksgUnsupported k => exact .inl ⟨_, rfl, (ksgUnsupported_workOnly k s).preserves⟩

/-- A table load goes on in each of its branches, with at most one event more (46_host_commands R274, R275). -/
theorem load_next {i : Instr} {s : State} {n cap : Nat} {code : BitVec 32} {tables : Db}
    (h : exec i s = if s.db.locked then .next (s.raise .eDbLocked code)
      else if n = cap then .next (s.raise .eResource code)
      else .next (s.withDb tables)) :
    ∃ t, exec i s = .next t ∧ s.EventsGrow t := by
  rw [h]
  split
  · exact ⟨_, rfl, (s.raise_preserves _ _).events⟩
  · split
    · exact ⟨_, rfl, (s.raise_preserves _ _).events⟩
    · exact ⟨_, rfl, .refl s⟩

/-- A host command always goes on, and only adds events. -/
theorem exec_command_next {i : Instr} (hi : Laws.rowSpace i = .command) (s : State) :
    ∃ t, exec i s = .next t ∧ s.EventsGrow t := by
  cases i with
  | nop => exact ⟨s, rfl, .refl s⟩
  | reset => exact ⟨_, rfl, .refl s⟩
  | pushBit b => exact ⟨_, rfl, (syncStep_preserves (s.lockDb.bitbufAppend b)).events⟩
  | loadNet | loadKey => exact load_next rfl
  | _ => nomatch hi

/-- Every instruction goes on with events only added, or stops with a fault; none is refused. -/
theorem exec_cases (i : Instr) (s : State) :
    (∃ t, exec i s = .next t ∧ s.EventsGrow t) ∨ ∃ f, exec i s = .fault f := by
  by_cases hi : Laws.rowSpace i = .command
  · exact .inl (exec_command_next hi s)
  · exact (exec_pipeline_cases hi s).imp_left fun ⟨t, ht, hp⟩ => ⟨t, ht, hp.events⟩

theorem exec_ne_refused (i : Instr) (s : State) (r : Refusal) : exec i s ≠ .refused r := by
  rcases exec_cases i s with ⟨t, ht, -⟩ | ⟨f, hf⟩
  · simp [ht]
  · simp [hf]

/-- Settles O26, from the two outcomes a row of `exec` can have. -/
theorem eventsOnlyGrow : Obligations.EventsOnlyGrow := by
  intro i s t h
  rcases exec_cases i s with ⟨u, hu, hgrow⟩ | ⟨f, hf⟩
  · obtain rfl : u = t := Host.Outcome.next.inj (hu.symm.trans h)
    exact hgrow
  · exact absurd (hf.symm.trans h) (by simp)

/-! Where a row stops: its guard in the words of the statement. -/

theorem State.hasSlot_iff (s : State) : s.hasSlot = true ↔ ¬ s.sync.bitbuf.length < 510 :=
  decide_eq_true_iff.trans Nat.not_lt.symm

theorem State.hasSubBlock_iff (s : State) (sb : SubBlock) :
    s.hasSubBlock sb = true ↔ ¬ s.work.pdu.bits.length ≠ (Config.blockParams sb).K :=
  beq_iff_eq.trans Decidable.not_not.symm

theorem State.pduPos_eq {s : State} {p : Nat} (h : s.work.pdu.l1 = some p) : s.pduPos = p := by
  simp [State.pduPos, h]

theorem State.hasPdu_iff_exists (s : State) :
    s.hasPdu = true ↔ ∃ p, s.work.pdu.l1 = some p ∧ p + 16 ≤ s.work.pdu.bits.length := by
  rw [s.hasPdu_iff]
  constructor
  · rintro ⟨hl1, hfits⟩
    exact ⟨_, hl1, hfits⟩
  · rintro ⟨p, hl1, hfits⟩
    rw [State.pduPos_eq hl1]
    exact ⟨hl1, hfits⟩

/-- The address type of the MAC-RESOURCE at the start of `v` is its bits 13 to 15 (30_encoding R93). -/
theorem readResHeader_addrType (v : Bits) : (readResHeader v).addrType = BitVec.ofNat 3 (uint (slice v 13 3)) := rfl

theorem State.hasResHeader_iff (s : State) :
    s.hasResHeader = true ↔ s.hasPdu = true ∧ 16 + addrBits (readResHeader s.pduRest).addrType ≤ s.pduRem := by
  unfold State.hasResHeader
  rw [Bool.and_eq_true, decide_eq_true_iff]
  rfl

/-- A header that fits is at least 16 bits long, so a PDU stands there. -/
theorem State.hasResHeader_iff_exists (s : State) :
    s.hasResHeader = true ↔ ∃ p, s.work.pdu.l1 = some p ∧
      p + 16 + addrBits (BitVec.ofNat 3 (uint (slice (s.work.pdu.bits.drop p) 13 3))) ≤ s.work.pdu.bits.length := by
  rw [s.hasResHeader_iff, s.hasPdu_iff_exists, readResHeader_addrType, State.pduRest, State.pduRem]
  constructor
  · rintro ⟨⟨p, hl1, hfits⟩, haddr⟩
    rw [State.pduPos_eq hl1] at haddr
    exact ⟨p, hl1, by omega⟩
  · rintro ⟨p, hl1, hfits⟩
    rw [State.pduPos_eq hl1]
    exact ⟨⟨p, hl1, by omega⟩, by omega⟩

/-- The operand that starts at the offset `l1` and ends at `need` of it fits in `n` bits unless it is absent: `l1` is unset,
or the operand would end behind them. -/
theorem exists_fits_iff {l1 : Option Nat} {n : Nat} {need : Nat → Nat} :
    (∃ p, l1 = some p ∧ need p ≤ n) ↔ ¬ ∀ p, l1 = some p → n < need p := by
  simp

/-- A row with a guard stops exactly while the guard fails, and goes on otherwise. -/
theorem guarded_stops {i : Instr} {s u : State} {b : Bool} {f : Fault} {absent : Prop} (hb : b = true ↔ ¬ absent)
    (h : exec i s = if b then .next u else .fault f) :
    (exec i s = .fault f ↔ absent) ∧ (¬ absent → ∃ t, exec i s = .next t) := by
  rw [h]
  cases b with
  | true =>
    have hthere : ¬ absent := hb.mp rfl
    exact ⟨by simp [hthere], fun _ => ⟨u, rfl⟩⟩
  | false =>
    have hgone : absent := by simpa using hb
    exact ⟨by simp [hgone], fun hthere => absurd hgone hthere⟩

theorem fetch_cons {s : State} {p : PortWord} {rest : List PortWord} (h : s.port = p :: rest) :
    fetch s = some (p, (s.withPort rest).withEvents []) := by
  simp [fetch, h]

/-- A word that selects an operation runs it on a fresh event list (46_host_commands R270). -/
theorem step_of_instr {s : State} {p : PortWord} {rest : List PortWord} {i : Instr} (h : s.port = p :: rest)
    (hd : decode p = .instr i) : step s = exec i ((s.withPort rest).withEvents []) := by
  simp only [step, fetch_cons h, hd]

/-- A word that selects nothing is left to `unselected`, on a fresh event list. -/
theorem step_of_reject {s : State} {p : PortWord} {rest : List PortWord} {r : Reject} (h : s.port = p :: rest)
    (hd : decode p = .reject r) : step s = unselected p ((s.withPort rest).withEvents []) := by
  simp only [step, fetch_cons h, hd]

/-- Of the words that select nothing, exactly those that are no host command are refused (30_encoding R107, log 7). -/
theorem unselected_refused_iff (p : PortWord) (s : State) :
    unselected p s = .refused .noSuchEncoding ↔ p.isCommand = false := by
  cases p <;> simp [unselected, PortWord.isCommand]

/-- A step refuses exactly a selector of an inner space that no row lists (30_encoding R107, log 7). -/
theorem step_refused_iff {s : State} {p : PortWord} {rest : List PortWord} (h : s.port = p :: rest) :
    step s = .refused .noSuchEncoding ↔ p.isCommand = false ∧ ∃ r, decode p = .reject r := by
  cases hd : decode p with
  | instr i => simp [step_of_instr h hd, exec_ne_refused]
  | reject r => simp [step_of_reject h hd, unselected_refused_iff]

/-- Settles O60: each row's guard is its operand being there, and only `unselected` refuses. -/
theorem absentOperandStops : Obligations.AbsentOperandStops := by
  refine ⟨fun s => ?_, fun s p rest h => step_refused_iff h⟩
  have slot := s.hasSlot_iff
  have block := s.hasSubBlock_iff
  have pdu := s.hasPdu_iff_exists.trans exists_fits_iff
  have header := s.hasResHeader_iff_exists.trans exists_fits_iff
  exact ⟨guarded_stops slot rfl, guarded_stops slot rfl, guarded_stops slot rfl,
    guarded_stops (block .sb1) rfl, guarded_stops (block .sb2) rfl, guarded_stops (block .ndb) rfl,
    guarded_stops (block .bbk) rfl, guarded_stops (block .schHu) rfl, guarded_stops (block .schF) rfl,
    guarded_stops pdu rfl, guarded_stops pdu rfl, guarded_stops pdu rfl, guarded_stops pdu rfl, guarded_stops pdu rfl,
    fun _ => guarded_stops pdu rfl, guarded_stops pdu rfl,
    fun _ => guarded_stops header rfl, guarded_stops header rfl, guarded_stops header rfl⟩

end Sys2Proof.Machine
end

section
/-! PROOFS. State (10_state R23, R30, R34, R35, R48, R53): what an instruction with a next state can have done and what a
step can have done, once each, and from them the stream position (O12), the fragment slots (O21) and the cell identity
(O25); the values of the reset state (O8) and the invariants it meets (O24). -/

namespace Sys2Proof.Machine

/-! What an instruction with a next state has done. -/

/-- The effects an instruction can have on `s`. All but `RESET`, `PUSH_BIT` and a table load that goes through preserve
what the pipeline preserves (46_host_commands R271 to R276). -/
inductive ExecEffect (s : State) : Instr → State → Prop
  | preserving {i : Instr} {t : State} (kept : s.Preserves t) : ExecEffect s i t
  | reset : ExecEffect s .reset ((State.reset.withPort s.port).withEvents s.events)
  | pushBit (b : Bool) : ExecEffect s (.pushBit b) (syncStep (s.lockDb.bitbufAppend b)).endCommand
  | appendNet {i : Instr} (e : NetEntry) (unlocked : s.db.locked = false) (room : s.nNets ≠ Config.netCap) :
      ExecEffect s i (s.appendNet e)
  | appendKey {i : Instr} (e : KeyEntry) (unlocked : s.db.locked = false) (room : s.nKeys ≠ Config.keyCap) :
      ExecEffect s i (s.appendKey e)

/-- A table load is refused with an event while the tables are locked and when its table is full, and else appends
(46_host_commands R274, R275). -/
theorem load_effect {i : Instr} {s t u : State} {n cap : Nat} {code : BitVec 32}
    (run : exec i s = if s.db.locked then .next (s.raise .eDbLocked code)
      else if n = cap then .next (s.raise .eResource code)
      else .next u)
    (append : s.db.locked = false → n ≠ cap → ExecEffect s i u) (h : exec i s = .next t) : ExecEffect s i t := by
  rw [run] at h
  split at h
  · obtain rfl := Host.Outcome.next.inj h
    exact .preserving (s.raise_preserves _ _)
  next hlock =>
    split at h
    · obtain rfl := Host.Outcome.next.inj h
      exact .preserving (s.raise_preserves _ _)
    next hroom =>
      obtain rfl := Host.Outcome.next.inj h
      exact append (Bool.of_not_eq_true hlock) hroom

theorem exec_effect {i : Instr} {s t : State} (h : exec i s = .next t) : ExecEffect s i t := by
  by_cases hi : Laws.rowSpace i = .command
  · cases i with
    | nop =>
      obtain rfl := Host.Outcome.next.inj h
      exact .preserving (.refl s)
    | reset =>
      obtain rfl := Host.Outcome.next.inj h
      exact .reset
    | pushBit b =>
      obtain rfl := Host.Outcome.next.inj h
      exact .pushBit b
    | loadNet => exact load_effect rfl (.appendNet _) h
    | loadKey => exact load_effect rfl (.appendKey _) h
    | _ => nomatch hi
  · rcases exec_pipeline_cases hi s with ⟨u, hu, kept⟩ | ⟨f, hf⟩
    · obtain rfl : u = t := Host.Outcome.next.inj (hu.symm.trans h)
      exact .preserving kept
    · exact absurd (hf.symm.trans h) (by simp)

/-! What a step with a next state has done. -/

/-- An empty port leaves the state as it is; else the word is taken off and either runs the instruction it selects or, a
command word that selects none, reports itself (46_host_commands R270, R277). -/
theorem step_next_cases {s t : State} (h : step s = .next t) :
    (s.port = [] ∧ t = s) ∨
      ∃ p rest, s.port = p :: rest ∧
        ((∃ i, decode p = .instr i ∧ exec i ((s.withPort rest).withEvents []) = .next t) ∨
          ∃ w r, p = .command w ∧ decode p = .reject r ∧ t = illegalCommand w ((s.withPort rest).withEvents [])) := by
  cases hport : s.port with
  | nil =>
    simp only [step, fetch, hport] at h
    exact .inl ⟨rfl, (Host.Outcome.next.inj h).symm⟩
  | cons p rest =>
    refine .inr ⟨p, rest, rfl, ?_⟩
    cases hd : decode p with
    | instr i => exact .inl ⟨i, rfl, step_of_instr hport hd ▸ h⟩
    | reject r =>
      rw [step_of_reject hport hd] at h
      cases p with
      | command w => exact .inr ⟨w, r, rfl, rfl, (Host.Outcome.next.inj h).symm⟩
      | _ => nomatch h

/-- A property that no word on the port and no event bears on is kept by every step if every instruction keeps it. -/
theorem step_keeps {P : State → Prop} (frame : ∀ s port events, P s → P ((s.withPort port).withEvents events))
    (keep : ∀ {i s t}, exec i s = .next t → P s → P t) {s t : State} (h : step s = .next t) (hs : P s) : P t := by
  rcases step_next_cases h with ⟨-, rfl⟩ | ⟨p, rest, -, ⟨i, -, hi⟩ | ⟨w, r, -, -, rfl⟩⟩
  · exact hs
  · exact keep hi (frame s rest [] hs)
  · exact frame s rest _ hs

/-! Invariants. -/

theorem FragFile.reset_ok : FragFile.reset.Ok :=
  ⟨FragSlot.reset_ok, FragSlot.reset_ok, FragSlot.reset_ok, FragSlot.reset_ok⟩

theorem Cell.reset_ok : Cell.reset.Ok := fun hvalid => nomatch hvalid

theorem exec_keeps_frag_ok {i : Instr} {s t : State} (h : exec i s = .next t) (hok : s.frag.Ok) : t.frag.Ok := by
  cases exec_effect h with
  | preserving kept => exact kept.frag hok
  | reset => exact FragFile.reset_ok
  | pushBit b => exact (syncStep_preserves (s.lockDb.bitbufAppend b)).frag hok
  | appendNet | appendKey => exact hok

/-- Settles O21: no instruction breaks the slots' invariant, and neither the port nor an event bears on it. -/
theorem fragmentSlotInvariantKept : Obligations.FragmentSlotInvariantKept :=
  fun _ _ hok h => step_keeps (P := fun s => s.frag.Ok) (fun _ _ _ => id) exec_keeps_frag_ok h hok

/-- Settles O25, over the effects of an instruction: the pipeline keeps both halves, and `RESET` leaves an invalid cell. -/
theorem cellIdentityKept : Obligations.CellIdentityKept := by
  intro i s t h hok
  cases exec_effect h with
  | preserving kept => exact ⟨kept.cell hok, fun _ => kept.valid⟩
  | reset => exact ⟨Cell.reset_ok, fun hne => absurd rfl hne⟩
  | pushBit b =>
    have kept := syncStep_preserves (s.lockDb.bitbufAppend b)
    exact ⟨kept.cell hok, fun _ => kept.valid⟩
  | appendNet | appendKey => exact ⟨hok, fun _ => id⟩

/-! The stream position. -/

/-- Settles O12: the appended bit moves the position by one, and the synchronizer step that follows keeps the position,
the tables and the port. -/
theorem pushBitAdvancesPosition : Obligations.PushBitAdvancesPosition := by
  intro s b
  have kept := syncStep_preserves (s.lockDb.bitbufAppend b)
  have position := syncStep_position (s.lockDb.bitbufAppend b)
  refine ⟨_, rfl, ?_, kept.db, kept.port⟩
  rw [State.endCommand_sync, position, State.bitbufAppend_sync, State.lockDb_sync]
  simp [Nat.add_assoc]

/-! The reset state. -/

/-- Settles O8, field by field of the table of 10_state R53. -/
theorem resetStateValues : Obligations.ResetStateValues := by
  refine ⟨rfl, rfl, rfl, rfl, rfl, rfl, rfl, rfl, ?_, rfl⟩
  rintro tn (rfl | rfl | rfl | rfl) <;> rfl

theorem SyncRegs.reset_ok : SyncRegs.reset.Ok := Nat.zero_le 37

theorem Time.reset_inRange : Time.reset.inRange := by decide

/-- With no identity known, neither lookup finds an entry, and none is cached. -/
theorem State.reset_lookupInv : State.reset.LookupInv := ⟨rfl, ⟨rfl, rfl⟩, fun _ => rfl⟩

/-- Settles O24: each group of the reset state meets its invariant. -/
theorem resetMeetsInvariants : Obligations.ResetMeetsInvariants :=
  ⟨SyncRegs.reset_ok, Time.reset_inRange, FragFile.reset_ok, ⟨State.reset_memory_wf, SyncRegs.reset_ok⟩,
    State.reset_lookupInv, Cell.reset_ok⟩

end Sys2Proof.Machine
end

section
/-! PROOFS. Memory (20_memory R60): the synchronizer's invariant leaves room in M1 for the bit `PUSH_BIT` appends, and so
every instruction keeps the canonical form of the memories (O22). -/

namespace Sys2Proof.Machine

/-- The synchronizer's invariant holds M1 to 509 bits, so a bit can be appended (42_burst_sync R172, 20_memory R61). -/
theorem SyncRegs.Ok.bitbuf_lt_cap {r : SyncRegs} (hok : r.Ok) : r.bitbuf.length < Config.bitbufCap := by
  have hle : r.bitbuf.length ≤ 509 := by
    unfold SyncRegs.Ok at hok
    cases hstate : r.state <;> simp only [hstate] at hok <;> omega
  exact Nat.lt_of_le_of_lt hle (by decide)

theorem exec_keeps_sync_ok {i : Instr} {s t : State} (h : exec i s = .next t) (hok : s.sync.Ok) : t.sync.Ok := by
  cases exec_effect h with
  | preserving kept => rwa [kept.sync]
  | reset => exact SyncRegs.reset_ok
  | pushBit b => exact syncStep_ok s.lockDb b hok
  | appendNet | appendKey => exact hok

/-- The canonical form needs the synchronizer's invariant for the append of `PUSH_BIT` alone. -/
theorem exec_keeps_memory_wf {i : Instr} {s t : State} (h : exec i s = .next t) (hwf : Memory.wf s)
    (hok : s.sync.Ok) : Memory.wf t := by
  cases exec_effect h with
  | preserving kept => exact kept.memory_wf hwf
  | reset => exact State.reset_memory_wf
  | pushBit b =>
    have appended : Memory.wf (s.lockDb.bitbufAppend b) :=
      State.bitbufAppend_memory_wf (State.lockDb_memory_wf hwf) b hok.bitbuf_lt_cap
    exact syncStep_memory_wf appended
  | appendNet e _ room => exact State.appendNet_memory_wf hwf e room
  | appendKey e _ room => exact State.appendKey_memory_wf hwf e room

theorem exec_keeps_memoryInv {i : Instr} {s t : State} (h : exec i s = .next t) (hinv : s.MemoryInv) :
    t.MemoryInv :=
  have ⟨hwf, hok⟩ := hinv
  ⟨exec_keeps_memory_wf h hwf hok, exec_keeps_sync_ok h hok⟩

/-- Settles O22: no instruction breaks the canonical form or the bounds of M1, and neither the port nor an event bears
on them. -/
theorem memoryFormKept : Obligations.MemoryFormKept :=
  fun _ _ hinv h => step_keeps (P := State.MemoryInv) (fun _ _ _ => id) exec_keeps_memoryInv h hinv

end Sys2Proof.Machine
end


section
/-! PROOFS. Encoding (30_encoding): the rows of the command table as relations between a word and an instruction (R80 to
R82), which the decoder and the encoder both agree with, and from them that every accepted word has one meaning (O3) and
which words are illegal (O4); decode and encode in all five spaces (O2, O1); the address types (R94, O49). -/

namespace Sys2Proof

/-! The fields of a command word. -/

/-- A field is the join of two exactly when its upper part is the one and its lower part is the other. -/
theorem extractLsb'_eq_append_iff {n start v u : Nat} {x : BitVec n} {hi : BitVec v} {lo : BitVec u} :
    x.extractLsb' start (v + u) = hi ++ lo ↔ x.extractLsb' (start + u) v = hi ∧ x.extractLsb' start u = lo := by
  rw [← BitVec.extractLsb'_append_extractLsb'_eq_extractLsb' rfl]
  constructor
  · intro h
    constructor
    · simpa only [BitVec.extractLsb'_append_eq_left] using congrArg (·.extractLsb' u v) h
    · simpa only [BitVec.extractLsb'_append_eq_right] using congrArg (·.extractLsb' 0 u) h
  · rintro ⟨rfl, rfl⟩
    rfl

theorem eq_cmdWord_iff {w : CmdWord} {op : BitVec Config.cmdOpcodeBits} {x : BitVec Config.cmdOperandBits} :
    w = cmdWord op x ↔ cmdOpcode w = op ∧ w.extractLsb' 0 Config.cmdOperandBits = x := by
  have whole : w.extractLsb' 0 (Config.cmdOpcodeBits + Config.cmdOperandBits) = w := BitVec.extractLsb'_eq_self
  have parts := extractLsb'_eq_append_iff (x := w) (start := 0) (hi := op) (lo := x)
  rwa [whole] at parts

/-- Format `CB`: bit 0 is the operand and the bits above it are zero (30_encoding R80). -/
theorem operands_eq_ofBool_iff {w : CmdWord} {b : Bool} :
    w.extractLsb' 0 Config.cmdOperandBits = BitVec.setWidth Config.cmdOperandBits (BitVec.ofBool b) ↔
      w.extractLsb' 1 Config.cbZeroBits = 0 ∧ w.getLsbD 0 = b := by
  have hbit : w.extractLsb' 0 1 = BitVec.ofBool (w.getLsbD 0) := by
    rw [← BitVec.setWidth_eq_extractLsb' (by decide), BitVec.setWidth_one]
  have happend : BitVec.setWidth Config.cmdOperandBits (BitVec.ofBool b) =
      (0 : BitVec Config.cbZeroBits) ++ BitVec.ofBool b := BitVec.setWidth_eq_append (by decide)
  rw [happend, ← BitVec.ofBool_eq_iff_eq, ← hbit]
  exact extractLsb'_eq_append_iff (v := Config.cbZeroBits) (u := 1)

/-- Format `CN`: four fields and zeros below them (30_encoding R80). -/
theorem operands_eq_cnOperands_iff {w : CmdWord} {mcc mnc : BitVec 16} {ksgType securityClass : BitVec 8} :
    w.extractLsb' 0 Config.cmdOperandBits = cnOperands mcc mnc ksgType securityClass ↔
      w.extractLsb' Config.cmdMccLsb 16 = mcc ∧ w.extractLsb' Config.cmdMncLsb 16 = mnc ∧
      w.extractLsb' Config.cnKsgTypeLsb 8 = ksgType ∧ w.extractLsb' Config.cnSecurityClassLsb 8 = securityClass ∧
      w.extractLsb' 0 Config.cnZeroBits = 0 := by
  change w.extractLsb' 0 (16 + (16 + (8 + (8 + Config.cnZeroBits)))) =
    mcc ++ (mnc ++ (ksgType ++ (securityClass ++ 0))) ↔ _
  rw [extractLsb'_eq_append_iff, extractLsb'_eq_append_iff, extractLsb'_eq_append_iff, extractLsb'_eq_append_iff]
  exact .rfl

/-- Format `CK`: six fields that fill the operand bits (30_encoding R80). -/
theorem operands_eq_ckOperands_iff {w : CmdWord} {mcc mnc : BitVec 16} {addr : BitVec 32} {keyType : BitVec 8}
    {keyNum : BitVec 32} {key : BitVec 80} :
    w.extractLsb' 0 Config.cmdOperandBits = ckOperands mcc mnc addr keyType keyNum key ↔
      w.extractLsb' Config.cmdMccLsb 16 = mcc ∧ w.extractLsb' Config.cmdMncLsb 16 = mnc ∧
      w.extractLsb' Config.ckAddrLsb 32 = addr ∧ w.extractLsb' Config.ckKeyTypeLsb 8 = keyType ∧
      w.extractLsb' Config.ckKeyNumLsb 32 = keyNum ∧ w.extractLsb' Config.ckKeyLsb 80 = key := by
  change w.extractLsb' 0 (16 + (16 + (32 + (8 + (32 + 80))))) =
    mcc ++ (mnc ++ (addr ++ (keyType ++ (keyNum ++ key)))) ↔ _
  rw [extractLsb'_eq_append_iff, extractLsb'_eq_append_iff, extractLsb'_eq_append_iff, extractLsb'_eq_append_iff,
    extractLsb'_eq_append_iff]
  exact .rfl

/-! The command table. -/

/-- The rows of the command table: the words of each instruction, field by field (30_encoding R80, R81). -/
inductive CommandRow (w : CmdWord) : Instr → Prop
  | nop (op : cmdOpcode w = Config.opcodeNop) (zero : w.extractLsb' 0 Config.cmdOperandBits = 0) : CommandRow w .nop
  | reset (op : cmdOpcode w = Config.opcodeReset) (zero : w.extractLsb' 0 Config.cmdOperandBits = 0) :
      CommandRow w .reset
  | pushBit (op : cmdOpcode w = Config.opcodePushBit) (zero : w.extractLsb' 1 Config.cbZeroBits = 0) :
      CommandRow w (.pushBit (w.getLsbD 0))
  | loadNet (op : cmdOpcode w = Config.opcodeLoadNet) (zero : w.extractLsb' 0 Config.cnZeroBits = 0) :
      CommandRow w (.loadNet (w.extractLsb' Config.cmdMccLsb 16) (w.extractLsb' Config.cmdMncLsb 16)
        (w.extractLsb' Config.cnKsgTypeLsb 8) (w.extractLsb' Config.cnSecurityClassLsb 8))
  | loadKey (op : cmdOpcode w = Config.opcodeLoadKey) :
      CommandRow w (.loadKey (w.extractLsb' Config.cmdMccLsb 16) (w.extractLsb' Config.cmdMncLsb 16)
        (w.extractLsb' Config.ckAddrLsb 32) (w.extractLsb' Config.ckKeyTypeLsb 8)
        (w.extractLsb' Config.ckKeyNumLsb 32) (w.extractLsb' Config.ckKeyLsb 80))

theorem decodeCommand_eq_instr_iff {w : CmdWord} {i : Instr} : decodeCommand w = .instr i ↔ CommandRow w i := by
  constructor
  · intro h
    unfold decodeCommand at h
    split at h
    next op =>
      split at h <;> cases h
      next zero => exact .nop op zero
    next =>
      split at h
      next op =>
        split at h <;> cases h
        next zero => exact .reset op zero
      next =>
        split at h
        next op =>
          split at h <;> cases h
          next zero => exact .pushBit op zero
        next =>
          split at h
          next op =>
            split at h <;> cases h
            next zero => exact .loadNet op zero
          next =>
            split at h <;> cases h
            next op => exact .loadKey op
  · intro row
    unfold decodeCommand
    cases row with
    | nop op zero => rw [if_pos op, if_pos zero]
    | reset op zero => rw [op, if_neg (by decide), if_pos rfl, if_pos zero]
    | pushBit op zero => rw [op, if_neg (by decide), if_neg (by decide), if_pos rfl, if_pos zero]
    | loadNet op zero =>
      rw [op, if_neg (by decide), if_neg (by decide), if_neg (by decide), if_pos rfl, if_pos zero]
    | loadKey op =>
      rw [op, if_neg (by decide), if_neg (by decide), if_neg (by decide), if_neg (by decide), if_pos rfl]

theorem encode_eq_command_iff {w : CmdWord} {i : Instr} : encode i = .command w ↔ CommandRow w i := by
  constructor
  · intro h
    cases i with
    | nop =>
      obtain ⟨op, zero⟩ := eq_cmdWord_iff.mp (PortWord.command.inj h).symm
      exact .nop op zero
    | reset =>
      obtain ⟨op, zero⟩ := eq_cmdWord_iff.mp (PortWord.command.inj h).symm
      exact .reset op zero
    | pushBit b =>
      obtain ⟨op, operands⟩ := eq_cmdWord_iff.mp (PortWord.command.inj h).symm
      obtain ⟨zero, rfl⟩ := operands_eq_ofBool_iff.mp operands
      exact .pushBit op zero
    | loadNet =>
      obtain ⟨op, operands⟩ := eq_cmdWord_iff.mp (PortWord.command.inj h).symm
      obtain ⟨rfl, rfl, rfl, rfl, zero⟩ := operands_eq_cnOperands_iff.mp operands
      exact .loadNet op zero
    | loadKey =>
      obtain ⟨op, operands⟩ := eq_cmdWord_iff.mp (PortWord.command.inj h).symm
      obtain ⟨rfl, rfl, rfl, rfl, rfl, rfl⟩ := operands_eq_ckOperands_iff.mp operands
      exact .loadKey op
    | _ => nomatch h
  · intro row
    have word {op x} (hop : cmdOpcode w = op) (hx : w.extractLsb' 0 Config.cmdOperandBits = x) :
        PortWord.command (cmdWord op x) = .command w := congrArg _ (eq_cmdWord_iff.mpr ⟨hop, hx⟩).symm
    cases row with
    | nop op zero | reset op zero => exact word op zero
    | pushBit op zero => exact word op (operands_eq_ofBool_iff.mpr ⟨zero, rfl⟩)
    | loadNet op zero => exact word op (operands_eq_cnOperands_iff.mpr ⟨rfl, rfl, rfl, rfl, zero⟩)
    | loadKey op => exact word op (operands_eq_ckOperands_iff.mpr ⟨rfl, rfl, rfl, rfl, rfl, rfl⟩)

/-- A command word is decoded to an instruction exactly when the encoder gives the word for it. -/
theorem decode_command_eq_instr_iff {w : CmdWord} {i : Instr} :
    decode (.command w) = .instr i ↔ encode i = .command w :=
  decodeCommand_eq_instr_iff.trans encode_eq_command_iff.symm

theorem CommandRow.wellFormed {w : CmdWord} {i : Instr} (row : CommandRow w i) : i.wellFormed = true := by
  cases row <;> rfl

/-- The legal command words: an assigned opcode with every must-be-zero bit clear (30_encoding R82). -/
theorem exists_commandRow_iff {w : CmdWord} : (∃ i, CommandRow w i) ↔
    (w.extractLsb' 184 8 = 0x00 ∧ w.extractLsb' 0 184 = 0) ∨ (w.extractLsb' 184 8 = 0x01 ∧ w.extractLsb' 0 184 = 0) ∨
    (w.extractLsb' 184 8 = 0x02 ∧ w.extractLsb' 1 183 = 0) ∨ (w.extractLsb' 184 8 = 0x10 ∧ w.extractLsb' 0 136 = 0) ∨
    w.extractLsb' 184 8 = 0x11 := by
  constructor
  · rintro ⟨_, row⟩
    cases row with
    | nop op zero => exact .inl ⟨op, zero⟩
    | reset op zero => exact .inr (.inl ⟨op, zero⟩)
    | pushBit op zero => exact .inr (.inr (.inl ⟨op, zero⟩))
    | loadNet op zero => exact .inr (.inr (.inr (.inl ⟨op, zero⟩)))
    | loadKey op => exact .inr (.inr (.inr (.inr op)))
  · rintro (⟨op, zero⟩ | ⟨op, zero⟩ | ⟨op, zero⟩ | ⟨op, zero⟩ | op)
    · exact ⟨_, .nop op zero⟩
    · exact ⟨_, .reset op zero⟩
    · exact ⟨_, .pushBit op zero⟩
    · exact ⟨_, .loadNet op zero⟩
    · exact ⟨_, .loadKey op⟩

/-- Settles O3: the decoder and the encoder read the same table. -/
theorem commandWordHasOneMeaning : Obligations.CommandWordHasOneMeaning := fun _ _ h =>
  ⟨decode_command_eq_instr_iff.mp h, (decodeCommand_eq_instr_iff.mp h).wellFormed⟩

/-- Settles O4: a word of no row is rejected, and the step then only reports it. -/
theorem illegalCommandReported : Obligations.IllegalCommandReported := by
  intro w legal
  have hlegal : (∃ i, decode (.command w) = .instr i) ↔ legal :=
    (exists_congr fun _ => decodeCommand_eq_instr_iff).trans exists_commandRow_iff
  refine ⟨hlegal.mpr, fun hillegal s rest hport => ?_⟩
  cases hd : decode (.command w) with
  | instr i => exact absurd (hlegal.mp ⟨i, hd⟩) hillegal
  | reject r => exact Machine.step_of_reject hport hd

/-! The spaces inside the pipeline. -/

/-- `LI_OCTETS` is every length indication that no other row owns (30_encoding R95). -/
theorem decodeLengthInd_of_wellFormed {l : BitVec 6} (h : (Instr.liOctets l).wellFormed = true) :
    decodeLengthInd l = .liOctets l := by
  obtain ⟨hstolen, hfrag⟩ := (Bool.and_eq_true _ _).mp h
  rw [decodeLengthInd, if_neg (bne_iff_ne.mp hstolen), if_neg (bne_iff_ne.mp hfrag)]

/-- `KSG_UNSUPPORTED` is every generator code that no other row owns (30_encoding R101). -/
theorem decodeKsg_of_wellFormed {k : BitVec 8} (h : (Instr.ksgUnsupported k).wellFormed = true) :
    decodeKsg k = .ksgUnsupported k := by
  obtain ⟨h12, hTea3⟩ := (Bool.and_eq_true _ _).mp h
  obtain ⟨hTea1, hTea2⟩ := (Bool.and_eq_true _ _).mp h12
  rw [decodeKsg, if_neg (bne_iff_ne.mp hTea1), if_neg (bne_iff_ne.mp hTea2), if_neg (bne_iff_ne.mp hTea3)]

/-- Settles O2, row by row: a command by the table, a selector without an operand by running the decoder on it, and the
two rows of all other values by what well-formedness shuts out. -/
theorem decodeEncodeAgree : Obligations.DecodeEncodeAgree := by
  intro i hwf
  cases i with
  | nop | reset | pushBit | loadNet | loadKey => exact decode_command_eq_instr_iff.mpr rfl
  | tsqSync | tsqNorm1 | tsqNorm2 => rfl
  | sb1 | sb2 | ndb | bbk | schHu | schF => rfl
  | macResource | macFrag | macEnd | broadcastSysinfo | broadcastAccessDefine | macSupplementary => rfl
  | broadcastOther b => cases b <;> rfl
  | liSecondHalfStolen | liStartOfFragmentation => rfl
  | liOctets l => exact congrArg Decoded.instr (decodeLengthInd_of_wellFormed hwf)
  | ksgTea1 | ksgTea2 | ksgTea3 => rfl
  | ksgUnsupported k => exact congrArg Decoded.instr (decodeKsg_of_wellFormed hwf)

/-- Settles O1: each word is the encoding of its row, but for the PDU, which goes on behind its type bits. -/
theorem specWordsDecode : Obligations.SpecWordsDecode :=
  ⟨decodeEncodeAgree .nop rfl, decodeEncodeAgree .reset rfl, decodeEncodeAgree (.pushBit true) rfl,
    decodeEncodeAgree (.loadNet 262 1 2 2) rfl,
    decodeEncodeAgree (.loadKey 262 1 4294967295 4 4294967295 0x0123456789ABCDEF0123) rfl,
    decodeEncodeAgree .bbk rfl, decodePdu_cons false true true false [],
    decodeEncodeAgree .liSecondHalfStolen rfl, decodeEncodeAgree (.ksgUnsupported 4) rfl⟩

/-! The address types. -/

namespace Machine

/-- The width and the record of an address by the parts its type has, offsets and widths in literals: the label and the
marker follow the SSI if there is one (30_encoding R93, R94). -/
theorem addr_of_type {v : Bits} {at_ : BitVec 3} (type : (readResHeader v).addrType = at_) :
    let has := Config.addrContent at_
    let afterSsi := 16 + if has.ssi then 24 else 0
    addrBits at_ = (if has.ssi then 24 else 0) +
      ((if has.eventLabel then 10 else 0) + (if has.usageMarker then 6 else 0)) ∧
    readAddr v =
      { type := at_
        ssi := if has.ssi then BitVec.ofNat 24 (uint (slice v 16 24)) else 0
        eventLabel := if has.eventLabel then BitVec.ofNat 10 (uint (slice v afterSsi 10)) else 0
        usageMarker := if has.usageMarker then BitVec.ofNat 6 (uint (slice v afterSsi 6)) else 0 } := by
  subst type
  exact ⟨rfl, rfl⟩

/-- Settles O49: at each type the parts it has are those its row of the table lists. -/
theorem addressTypeTable : Obligations.AddressTypeTable := by
  intro v at_ ssi
  refine ⟨fun null => ?_, ?_, fun label => ?_, ?_, fun marked => ?_⟩
  · rw [null]
    exact addr_of_type null
  · rintro (single | single | single) <;> rw [single] <;> exact addr_of_type single
  · rw [label]
    exact addr_of_type label
  · rintro (labelled | labelled) <;> rw [labelled] <;> exact addr_of_type labelled
  · rw [marked]
    exact addr_of_type marked

end Machine

end Sys2Proof
end

section
/-! PROOFS. Time (40_tdma_time R110 to R118): a whole unit carries one into the next and a part in its range carries
nothing, once per part of `normalize`, and from them the carry laws (O28) and the timeslot advance (O29); every step
keeps the ranges (O20). -/

namespace Sys2Proof.Machine

/-! The ranges. -/

theorem exec_keeps_time_inRange {i : Instr} {s t : State} (h : exec i s = .next t) (hr : s.time.inRange) :
    t.time.inRange := by
  cases exec_effect h with
  | preserving kept => exact kept.time hr
  | reset => exact Time.reset_inRange
  | pushBit b => exact (syncStep_preserves (s.lockDb.bitbufAppend b)).time hr
  | appendNet | appendKey => exact hr

/-- Settles O20: no instruction takes a field of `time` out of its range, and neither the port nor an event bears on
it. -/
theorem timeStaysInRange : Obligations.TimeStaysInRange :=
  fun _ _ hr h => step_keeps (P := fun s => s.time.inRange) (fun _ _ _ => id) exec_keeps_time_inRange h hr

/-! The parts of `normalize`, which count from 1. -/

/-- One whole unit more carries one more. -/
theorem carry_add_unit {x k : Nat} (hx : 1 ≤ x) (hk : 0 < k) : (x + k - 1) / k = (x - 1) / k + 1 := by
  rw [Nat.sub_add_comm hx, Nat.add_div_right _ hk]

/-- One whole unit more leaves the same rest. -/
theorem rest_add_unit {x k : Nat} (hx : 1 ≤ x) : (x + k - 1) % k = (x - 1) % k := by
  rw [Nat.sub_add_comm hx, Nat.add_mod_right]

/-- A part in its range carries nothing and stays. -/
theorem carry_of_inRange {x k : Nat} (h : 1 ≤ x ∧ x ≤ k) : (x - 1) / k = 0 ∧ (x - 1) % k + 1 = x := by
  have hlt : x - 1 < k := by omega
  exact ⟨Nat.div_eq_of_lt hlt, by rw [Nat.mod_eq_of_lt hlt, Nat.sub_add_cancel h.1]⟩

/-- A normalized part fits any register that holds its greatest value. -/
theorem toNat_ofNat_normalized {w k : Nat} (x : Nat) (hk : 0 < k) (hw : k < 2 ^ w) :
    (BitVec.ofNat w (x % k + 1)).toNat = x % k + 1 :=
  (BitVec.toNat_ofNat _ _).trans (Nat.mod_eq_of_lt (Nat.lt_of_le_of_lt (Nat.mod_lt x hk) hw))

/-! `normalize` (40_tdma_time R111). -/

theorem normalize_add_slot {sn : Nat} (h : 1 ≤ sn) (tn fn mn hn : Nat) :
    normalize (sn + 255) tn fn mn hn = normalize sn (tn + 1) fn mn hn := by
  simp only [normalize, Config.symbolsPerSlot, carry_add_unit h, rest_add_unit h, Nat.succ_pos, ← Nat.add_assoc,
    Nat.add_right_comm tn 1]

theorem normalize_add_frame {tn : Nat} (h : 1 ≤ tn) (sn fn mn hn : Nat) :
    normalize sn (tn + 4) fn mn hn = normalize sn tn (fn + 1) mn hn := by
  have started (carry : Nat) : 1 ≤ tn + carry := Nat.le_add_right_of_le h
  simp only [normalize, Config.slotsPerFrame, Nat.add_right_comm tn 4, carry_add_unit (started _),
    rest_add_unit (started _), Nat.succ_pos, ← Nat.add_assoc, Nat.add_right_comm fn 1]

theorem normalize_add_multiframe {fn : Nat} (h : 1 ≤ fn) (sn tn mn hn : Nat) :
    normalize sn tn (fn + 18) mn hn = normalize sn tn fn (mn + 1) hn := by
  have started (carry : Nat) : 1 ≤ fn + carry := Nat.le_add_right_of_le h
  simp only [normalize, Config.framesPerMultiframe, Nat.add_right_comm fn 18, carry_add_unit (started _),
    rest_add_unit (started _), Nat.succ_pos, ← Nat.add_assoc, Nat.add_right_comm mn 1]

/-- The carry out of the multiframe is dropped. -/
theorem normalize_add_hyperframe {mn : Nat} (h : 1 ≤ mn) (sn tn fn hn : Nat) :
    normalize sn tn fn (mn + 60) hn = normalize sn tn fn mn hn := by
  have started (carry : Nat) : 1 ≤ mn + carry := Nat.le_add_right_of_le h
  simp only [normalize, Config.multiframesPerHyperframe, Nat.add_right_comm mn 60, rest_add_unit (started _)]

/-- With the symbol in its range no carry comes out of it. -/
theorem normalize_of_sn_inRange {sn : Nat} (h : 1 ≤ sn ∧ sn ≤ 255) (tn fn mn hn : Nat) :
    normalize sn tn fn mn hn =
      let fn := fn + (tn - 1) / 4
      let mn := mn + (fn - 1) / 18
      (sn, (tn - 1) % 4 + 1, (fn - 1) % 18 + 1, (mn - 1) % 60 + 1, hn) := by
  obtain ⟨carry, stays⟩ := carry_of_inRange h
  simp only [normalize, Config.symbolsPerSlot, Config.slotsPerFrame, Config.framesPerMultiframe,
    Config.multiframesPerHyperframe, carry, stays, Nat.add_zero]

theorem normalize_of_inRange {sn tn fn mn : Nat} (hsn : 1 ≤ sn ∧ sn ≤ 255) (htn : 1 ≤ tn ∧ tn ≤ 4)
    (hfn : 1 ≤ fn ∧ fn ≤ 18) (hmn : 1 ≤ mn ∧ mn ≤ 60) (hn : Nat) :
    normalize sn tn fn mn hn = (sn, tn, fn, mn, hn) := by
  obtain ⟨tnCarry, tnStays⟩ := carry_of_inRange htn
  obtain ⟨fnCarry, fnStays⟩ := carry_of_inRange hfn
  obtain ⟨-, mnStays⟩ := carry_of_inRange hmn
  simp only [normalize_of_sn_inRange hsn, tnCarry, tnStays, fnCarry, fnStays, mnStays, Nat.add_zero]

/-! The advances (40_tdma_time R112 to R114). -/

/-- Writing `time` back with another symbol changes the symbol only. -/
theorem Time.ofNormalized_withSn (t : Time) (sn : Nat) :
    Time.ofNormalized (sn, t.tn.toNat, t.fn.toNat, t.mn.toNat, t.hn.toNat) = { t with sn := BitVec.ofNat 8 sn } := by
  simp only [Time.ofNormalized, BitVec.ofNat_toNat, BitVec.setWidth_eq]

theorem Time.addSn_within_slot {t : Time} (h : t.inRange) {n : Nat} (fits : t.sn.toNat + n ≤ 255) :
    t.addSn n = { t with sn := BitVec.ofNat 8 (t.sn.toNat + n) } := by
  obtain ⟨hmn, hfn, htn, hsn, -⟩ := h
  rw [Time.addSn, normalize_of_inRange ⟨Nat.le_add_right_of_le hsn, fits⟩ htn hfn hmn, Time.ofNormalized_withSn]

theorem Time.addMn_hyperframe {t : Time} (h : t.inRange) : t.addMn 60 = t := by
  obtain ⟨hmn, hfn, htn, hsn⟩ := h
  rw [Time.addMn, normalize_add_hyperframe hmn.1, normalize_of_inRange hsn htn hfn hmn, Time.ofNormalized_withSn,
    BitVec.ofNat_toNat, BitVec.setWidth_eq]

/-- Settles O28: each part's whole unit carries one into the next part. -/
theorem timeCarryLaws : Obligations.TimeCarryLaws := by
  intro t h
  have ⟨_, ⟨hfn, _⟩, ⟨htn, _⟩, ⟨hsn, _⟩⟩ := h
  exact ⟨congrArg Time.ofNormalized (normalize_add_frame htn _ _ _ _),
    congrArg Time.ofNormalized (normalize_add_multiframe hfn _ _ _ _),
    congrArg Time.ofNormalized (normalize_add_slot hsn _ _ _ _),
    fun _ fits => Time.addSn_within_slot h fits, Time.addMn_hyperframe h⟩

/-- Settles O29: the symbol carries nothing, and each normalized part fits its register. -/
theorem timeslotAdvanceNormalizes : Obligations.TimeslotAdvanceNormalizes := by
  intro t n h
  obtain ⟨-, -, -, hsn⟩ := h
  rw [Time.addTn, normalize_of_sn_inRange hsn]
  exact ⟨by simp [Time.ofNormalized],
    toNat_ofNat_normalized _ (by decide) (by decide), toNat_ofNat_normalized _ (by decide) (by decide),
    toNat_ofNat_normalized _ (by decide) (by decide),
    by simp [Time.ofNormalized]⟩

end Sys2Proof.Machine
end

section
/-! PROOFS. Check bits and scrambler (41_codecs R120 to R130): the CRC is linear and a register shifts its own bits out,
so the check bits of any register lead it to one residue (O32); the scrambler adds one sequence (O33). -/

namespace Sys2Proof

/-! Bit vectors added to each other (41_codecs R120, R129). -/

theorem xorBits_getD (v ks : Bits) {k : Nat} (hk : k < v.length) :
    (xorBits v ks).getD k false = (v.getD k false ^^ ks.getD k false) := by
  induction v generalizing ks k with
  | nil => nomatch hk
  | cons b v ih =>
    cases ks with
    | nil => simp [xorBits]
    | cons c ks =>
      cases k with
      | zero => rfl
      | succ k => simpa [xorBits] using ih ks (Nat.lt_of_succ_lt_succ hk)

theorem xorBits_map {α : Type} (f g : α → Bool) (l : List α) :
    xorBits (l.map f) (l.map g) = l.map fun i => f i ^^ g i := by
  induction l with
  | nil => rfl
  | cons i l ih => exact congrArg _ ih

theorem bitsN_xor (n x y : Nat) : bitsN n (x ^^^ y) = xorBits (bitsN n x) (bitsN n y) := by
  simp only [bitsN, xorBits_map, Nat.testBit_xor]

theorem bitsN_succ (n x : Nat) : bitsN (n + 1) x = x.testBit n :: bitsN n x := by
  simp only [bitsN, List.range_succ_eq_map, List.map_cons, List.map_map]
  congr 1
  refine List.map_congr_left fun i hi => ?_
  have : i < n := List.mem_range.mp hi
  show x.testBit (n + 1 - 1 - (i + 1)) = x.testBit (n - 1 - i)
  congr 1; omega

/-! The CRC (41_codecs R120 to R123). -/

theorem crc16_append (c : BitVec 16) (u w : Bits) : crc16 c (u ++ w) = crc16 (crc16 c u) w := List.foldl_append

theorem crc16Step_eq (c : BitVec 16) (b : Bool) :
    crc16Step c b = c <<< 1 ^^^ if c.getLsbD 15 ^^ b then Config.crcPoly else 0 := by
  unfold crc16Step
  split
  · rfl
  · exact BitVec.xor_zero.symm

/-- The step is linear in the register and the bit together. -/
theorem crc16Step_xor (c d : BitVec 16) (a b : Bool) :
    crc16Step (c ^^^ d) (a ^^ b) = crc16Step c a ^^^ crc16Step d b := by
  have top : ((c ^^^ d).getLsbD 15 ^^ (a ^^ b)) = ((c.getLsbD 15 ^^ a) ^^ (d.getLsbD 15 ^^ b)) := by
    rw [BitVec.getLsbD_xor, Bool.xor_assoc, Bool.xor_assoc, Bool.xor_left_comm (d.getLsbD 15)]
  have poly (x y : Bool) : (if x ^^ y then Config.crcPoly else 0) =
      (if x then Config.crcPoly else 0) ^^^ if y then Config.crcPoly else 0 := by
    cases x <;> cases y <;> rfl
  rw [crc16Step_eq, crc16Step_eq, crc16Step_eq, top, poly, BitVec.shiftLeft_xor_distrib]
  ac_rfl

theorem crc16_xor (c d : BitVec 16) {u w : Bits} (h : u.length = w.length) :
    crc16 (c ^^^ d) (xorBits u w) = crc16 c u ^^^ crc16 d w := by
  induction u generalizing w c d with
  | nil => obtain rfl := List.eq_nil_of_length_eq_zero h.symm; rfl
  | cons a u ih =>
    cases w with
    | nil => nomatch h
    | cons b w =>
      show crc16 (crc16Step (c ^^^ d) (a ^^ b)) (xorBits u w) = _
      rw [crc16Step_xor, ih _ _ (Nat.succ.inj h)]
      rfl

/-- A register that is fed its own bits shifts them out and nothing in. -/
theorem crc16_own_bits (x : BitVec 16) {k n : Nat} (h : k + n = 16) : crc16 (x <<< k) (bitsN n x.toNat) = 0 := by
  induction n generalizing k with
  | zero => exact BitVec.shiftLeft_eq_zero (Nat.le_of_eq h.symm)
  | succ n ih =>
    have top : (x <<< k).getLsbD 15 = x.toNat.testBit n := by
      have inside : n + k < 16 := by omega
      rw [show 15 = n + k by omega, BitVec.testBit_toNat, BitVec.getLsbD_shiftLeft, Nat.add_sub_cancel]
      simp [inside]
    have step : crc16Step (x <<< k) (x.toNat.testBit n) = x <<< (k + 1) := by
      rw [crc16Step, top, Bool.xor_self, if_neg Bool.false_ne_true, ← BitVec.shiftLeft_add]
    rw [bitsN_succ]
    show crc16 (crc16Step _ _) _ = 0
    rw [step, ih (by omega)]

theorem crc16_ones : crc16 0 (bitsN 16 Config.crcXorOut.toNat) = Config.crcResidue := by decide +kernel

/-- The complement of a register, sent as check bits, brings that register to the residue (41_codecs R123). -/
theorem crc16_check_bits (c : BitVec 16) : crc16 c (bitsN 16 (c ^^^ Config.crcXorOut).toNat) = Config.crcResidue := by
  calc crc16 c (bitsN 16 (c ^^^ Config.crcXorOut).toNat)
      = crc16 (c ^^^ 0) (xorBits (bitsN 16 c.toNat) (bitsN 16 Config.crcXorOut.toNat)) := by
        rw [BitVec.toNat_xor, bitsN_xor, show c ^^^ 0 = c from BitVec.xor_zero]
    _ = crc16 c (bitsN 16 c.toNat) ^^^ crc16 0 (bitsN 16 Config.crcXorOut.toNat) := crc16_xor c 0 (by simp)
    _ = 0 ^^^ Config.crcResidue := by
        rw [crc16_ones, ← crc16_own_bits c (show 0 + 16 = 16 from rfl), BitVec.shiftLeft_zero]
    _ = Config.crcResidue := BitVec.zero_xor

/-- Settles O32: behind the payload, the check bits of its register lead to the residue. -/
theorem crcAcceptsAppended : Obligations.CrcAcceptsAppended := by
  refine ⟨fun _ _ => rfl, fun _ => rfl, fun _ _ => rfl, fun c u w => (crc16_append c u w).symm,
    fun v => beq_iff_eq, fun p => ⟨?_, beq_iff_eq.mpr ?_⟩⟩
  · have complement : crc16 0xFFFF p ^^^ Config.crcXorOut = ~~~ crc16 0xFFFF p := BitVec.xor_allOnes
    rw [← complement]
    rfl
  · rw [crcAppend, crc16_append, crc16_check_bits]

/-! The scrambler (41_codecs R127 to R130). -/

theorem scrambleSeq_succ (init : BitVec 32) (n : Nat) :
    scrambleSeq init (n + 1) = (lfsrNext init).2 :: scrambleSeq (lfsrNext init).1 n := rfl

theorem scrambleSeq_zero (n : Nat) : scrambleSeq 0 n = List.replicate n false := by
  induction n with
  | zero => rfl
  | succ n ih =>
    have still : lfsrNext 0 = (0, false) := by decide
    rw [scrambleSeq_succ, still, ih, List.replicate_succ]

theorem lfsrFeedback_eq (l : BitVec 32) : lfsrFeedback l =
    (l.getLsbD 0 ^^ l.getLsbD 6 ^^ l.getLsbD 9 ^^ l.getLsbD 10 ^^ l.getLsbD 16 ^^ l.getLsbD 20 ^^
      l.getLsbD 21 ^^ l.getLsbD 22 ^^ l.getLsbD 24 ^^ l.getLsbD 25 ^^ l.getLsbD 27 ^^ l.getLsbD 28 ^^
      l.getLsbD 30 ^^ l.getLsbD 31) := by
  simp [lfsrFeedback, Config.lfsrTaps]

/-- The feedback bit enters at the top (41_codecs R127). -/
theorem setWidth_ofBool_top (b : Bool) :
    BitVec.setWidth 32 (BitVec.ofBool b) <<< 31 = if b = true then 0x80000000 else 0 := by
  cases b <;> rfl

theorem negateUnder_getD (v : List Soft) (ks : Bits) {k : Nat} (hk : k < v.length) :
    (negateUnder v ks).getD k 0 = if ks.getD k false = true then -(v.getD k 0) else v.getD k 0 := by
  induction v generalizing ks k with
  | nil => nomatch hk
  | cons x v ih =>
    cases ks with
    | nil => simp [negateUnder]
    | cons c ks =>
      cases k with
      | zero => rfl
      | succ k => simpa [negateUnder] using ih ks (Nat.lt_of_succ_lt_succ hk)

theorem soft_xor (b k : Bool) : soft (b ^^ k) = if k then -(soft b) else soft b := by
  cases b <;> cases k <;> rfl

/-- Negating soft symbols is the XOR of the bits they stand for (41_codecs R129). -/
theorem negateUnder_map_soft (v ks : Bits) : negateUnder (v.map soft) ks = (xorBits v ks).map soft := by
  induction v generalizing ks with
  | nil => cases ks <;> rfl
  | cons b v ih => cases ks with
    | nil => rfl
    | cons c ks => simp [negateUnder, xorBits, soft_xor, ih]

/-- The four parts of the packing, each shifted to its place. -/
theorem scramb_parts_or (mcc mnc cc : Nat) : mcc <<< 22 ||| (mnc <<< 8 ||| (cc <<< 2 ||| 3)) =
    (((cc ||| mnc <<< 6) ||| mcc <<< 20) <<< 2) ||| 3 := by
  have turn (a b c d : Nat) : a ||| (b ||| (c ||| d)) = ((c ||| b) ||| a) ||| d := by ac_rfl
  rw [turn, Nat.shiftLeft_or_distrib, Nat.shiftLeft_or_distrib, ← Nat.shiftLeft_add, ← Nat.shiftLeft_add]

/-- The packing of the identity over the constant (41_codecs R130). -/
theorem scrambInit_eq_append (mcc mnc cc : Nat) :
    scrambInit mcc mnc cc =
      BitVec.ofNat 10 mcc ++ (BitVec.ofNat 14 mnc ++ (BitVec.ofNat 6 cc ++ (3 : BitVec 2))) := by
  have packed : (BitVec.ofNat 10 mcc ++ (BitVec.ofNat 14 mnc ++ (BitVec.ofNat 6 cc ++ (3 : BitVec 2)))).toNat =
      ((((cc &&& 0x3F) ||| ((mnc &&& 0x3FFF) <<< 6)) ||| ((mcc &&& 0x3FF) <<< 20)) <<< 2) ||| 3 := by
    simp only [BitVec.toNat_append, BitVec.toNat_ofNat, ← Nat.and_two_pow_sub_one_eq_mod]
    exact scramb_parts_or _ _ _
  refine BitVec.eq_of_toNat_eq ?_
  rw [packed]
  exact Nat.mod_eq_of_lt (packed ▸ BitVec.isLt _)

/-- Settles O33: a step shifts the feedback in at the top, and adding one sequence twice is nothing. -/
theorem scramblerIsInvolution : Obligations.ScramblerIsInvolution := by
  refine ⟨fun l => ?_, fun init n => ⟨rfl, scrambleSeq_succ init n, scrambleSeq_zero n⟩,
    fun x init => ⟨negateUnder_length x _, fun k hk => negateUnder_getD x _ hk⟩,
    fun x init => ?_, scrambInit_eq_append,
    fun x init => ⟨scramble_length x init, fun k hk => xorBits_getD x _ hk, ?_⟩⟩
  · rw [lfsrNext, lfsrFeedback_eq, setWidth_ofBool_top]
  · rw [scrambleSoft, List.length_map]
    exact negateUnder_map_soft x _
  · rw [scramble, scramble_length]
    exact xorBits_xorBits x _

end Sys2Proof
end

section
/-! PROOFS. Interleaver and puncturing (41_codecs R132 to R145): both write the entries of a list to places of their
own, no place twice, so that each entry is found where it was sent (O34, O35). -/

namespace Sys2Proof

/-! Scattering the entries of a list to the places `f` gives them (41_codecs R132, R144). -/

section Scatter
variable {α β : Type} {f : β → Nat} {g : β → α} {l : List β} {y : List α} {d : α}

/-- A place that no entry is sent to keeps what it held. -/
theorem getD_foldl_set_of_forall_ne {k : Nat} (h : ∀ i ∈ l, f i ≠ k) :
    (l.foldl (fun y i => y.set (f i) (g i)) y).getD k d = y.getD k d := by
  induction l generalizing y with
  | nil => rfl
  | cons b l ih =>
    rw [List.foldl_cons, ih fun i hi => h i (List.mem_cons_of_mem b hi), List.getD_eq_getElem?_getD,
      List.getElem?_set_ne (h b List.mem_cons_self), List.getD_eq_getElem?_getD]

/-- When no place is written twice, each entry stands at its own. -/
theorem getD_foldl_set_of_mem {i : β} (inj : ∀ i ∈ l, ∀ j ∈ l, f i = f j → i = j) (hi : i ∈ l)
    (hlt : f i < y.length) : (l.foldl (fun y i => y.set (f i) (g i)) y).getD (f i) d = g i := by
  induction l generalizing y with
  | nil => nomatch hi
  | cons b l ih =>
    rw [List.foldl_cons]
    by_cases later : ∃ j ∈ l, f j = f i
    · obtain ⟨j, hj, hij⟩ := later
      obtain rfl : j = i := inj j (List.mem_cons_of_mem b hj) i hi hij
      have inj' : ∀ i ∈ l, ∀ j ∈ l, f i = f j → i = j :=
        fun i hi j hj => inj i (List.mem_cons_of_mem b hi) j (List.mem_cons_of_mem b hj)
      exact ih inj' hj (by simpa using hlt)
    · have hlast : ∀ j ∈ l, f j ≠ f i := fun j hj hij => later ⟨j, hj, hij⟩
      obtain rfl : i = b := (List.mem_cons.mp hi).resolve_right fun h => hlast i h rfl
      rw [getD_foldl_set_of_forall_ne hlast]
      simp [hlt]

end Scatter

theorem ext_getD {α : Type} {u v : List α} (d : α) (hlen : u.length = v.length)
    (h : ∀ k, k < u.length → u.getD k d = v.getD k d) : u = v := by
  refine List.ext_getElem hlen fun k hu hv => ?_
  simpa only [List.getD_eq_getElem?_getD, List.getElem?_eq_getElem hu, List.getElem?_eq_getElem hv, Option.getD_some]
    using h k hu

/-! The block interleaver (41_codecs R132 to R134). -/

theorem interleaveIndex_inj_of_le {K a i j : Nat} (coprime : Nat.gcd a K = 1) (hj : j < K) (hij : i ≤ j)
    (h : interleaveIndex K a i = interleaveIndex K a j) : i = j := by
  have distance : a * (j + 1) - a * (i + 1) = a * (j - i) := by rw [← Nat.mul_sub, Nat.add_sub_add_right]
  have hdvd : K ∣ a * (j - i) := Nat.dvd_of_mod_eq_zero (distance ▸ Nat.sub_mod_eq_zero_of_mod_eq h.symm)
  have none_between : j - i = 0 :=
    Nat.eq_zero_of_dvd_of_lt (Nat.Coprime.dvd_of_dvd_mul_left (Nat.Coprime.symm coprime) hdvd) (by omega)
  omega

/-- A coprime step sends no two elements to one place. -/
theorem interleaveIndex_inj {K a i j : Nat} (coprime : Nat.gcd a K = 1) (hi : i < K) (hj : j < K)
    (h : interleaveIndex K a i = interleaveIndex K a j) : i = j := by
  rcases Nat.le_total i j with hij | hji
  · exact interleaveIndex_inj_of_le coprime hj hij h
  · exact (interleaveIndex_inj_of_le coprime hi hji h.symm).symm

theorem interleaveIndex_lt {K a i : Nat} (hi : i < K) : interleaveIndex K a i < K :=
  Nat.mod_lt _ (Nat.zero_lt_of_lt hi)

theorem blockInterleave_getD {α : Type} (hole : α) {K a i : Nat} (x : List α) (coprime : Nat.gcd a K = 1) (hi : i < K) :
    (blockInterleave hole K a x).getD (interleaveIndex K a i) hole = x.getD i hole :=
  getD_foldl_set_of_mem
    (fun _ hi _ hj h => interleaveIndex_inj coprime (List.mem_range.mp hi) (List.mem_range.mp hj) h)
    (List.mem_range.mpr hi) (by simpa using interleaveIndex_lt hi)

theorem blockDeinterleave_getD {α : Type} (hole : α) {K a i : Nat} (y : List α) (hi : i < K) :
    (blockDeinterleave hole K a y).getD i hole = y.getD (interleaveIndex K a i) hole := by
  simp [blockDeinterleave, hi]

theorem blockDeinterleave_blockInterleave {α : Type} (hole : α) (a : Nat) (x : List α)
    (coprime : Nat.gcd a x.length = 1) :
    blockDeinterleave hole x.length a (blockInterleave hole x.length a x) = x := by
  refine ext_getD hole (blockDeinterleave_length ..) fun i hi => ?_
  rw [blockDeinterleave_length] at hi
  rw [blockDeinterleave_getD hole _ hi, blockInterleave_getD hole x coprime hi]

/-- Settles O34: element `i` counted from 1 is the one of index `i - 1`, and a coprime step writes no place twice. -/
theorem interleaverRoundTrip : Obligations.InterleaverRoundTrip := by
  refine ⟨?_, ?_, by decide, by decide, by decide, by decide⟩
  · rintro α hole K a x coprime rfl
    refine ⟨blockInterleave_length .., fun i h1 hi => ?_, blockDeinterleave_blockInterleave hole a x coprime⟩
    obtain ⟨i, rfl⟩ := Nat.exists_eq_add_of_le' h1
    simp only [Nat.add_sub_cancel_left]
    exact blockInterleave_getD hole x coprime hi
  · rintro α hole K a y rfl
    refine ⟨blockDeinterleave_length .., fun i h1 hi => ?_⟩
    obtain ⟨i, rfl⟩ := Nat.exists_eq_add_of_le' h1
    simp only [Nat.add_sub_cancel_left]
    exact blockDeinterleave_getD hole y hi

/-! Puncturing (41_codecs R141 to R145). -/

/-- The place a period of `P` gives to an entry: whole groups of `t` transmitted bits, then one within the group. -/
theorem punctIndex_eq {p : Puncturer} (hremap : p.remap = id) (g : Nat) {q : Nat} (hq : q < p.t) :
    punctIndex p (p.t * g + q + 1) = p.period * g + p.P.getD q 0 := by
  have hg : (p.t * g + q) / p.t = g := by
    rw [Nat.mul_add_div (Nat.zero_lt_of_lt hq), Nat.div_eq_of_lt hq, Nat.add_zero]
  have hrest : p.t * g + q + 1 - p.t * g - 1 = q := by omega
  simp only [punctIndex, hremap, id, Nat.add_sub_cancel, hg, hrest]

/-- A puncturer whose positions go up, within a period and from its end to the start of the next. -/
structure Puncturer.Ascending (p : Puncturer) : Prop where
  remap : p.remap = id
  within : ∀ q < p.t - 1, p.P.getD q 0 < p.P.getD (q + 1) 0
  across : p.P.getD (p.t - 1) 0 < p.period + p.P.getD 0 0
  start : 0 < p.P.getD 0 0
  nonempty : 0 < p.t

theorem punct23_ascending : Config.punct23.Ascending := ⟨rfl, by decide, by decide, by decide, by decide⟩

theorem punct13_ascending : Config.punct13.Ascending := ⟨rfl, by decide, by decide, by decide, by decide⟩

section Ascending
variable {p : Puncturer} (asc : p.Ascending)
include asc

theorem punctIndex_lt_succ (j : Nat) : punctIndex p (j + 1) < punctIndex p (j + 1 + 1) := by
  have hq : j % p.t < p.t := Nat.mod_lt j asc.nonempty
  rw [← Nat.div_add_mod j p.t, punctIndex_eq asc.remap _ hq]
  by_cases last : j % p.t < p.t - 1
  · rw [Nat.add_assoc (p.t * _), punctIndex_eq asc.remap _ (Nat.add_lt_of_lt_sub last)]
    exact Nat.add_lt_add_left (asc.within _ last) _
  · have hwrap : p.t * (j / p.t) + j % p.t + 1 = p.t * (j / p.t + 1) + 0 := by rw [Nat.mul_succ]; omega
    have hend : j % p.t = p.t - 1 := by omega
    rw [hwrap, punctIndex_eq asc.remap _ asc.nonempty, hend, Nat.mul_succ, Nat.add_assoc]
    exact Nat.add_lt_add_left asc.across _

theorem punctIndex_lt {i j : Nat} (hi : 1 ≤ i) (hij : i < j) : punctIndex p i < punctIndex p j := by
  obtain ⟨i, rfl⟩ := Nat.exists_eq_add_of_le' hi
  induction hij with
  | refl => exact punctIndex_lt_succ asc i
  | @step j hij ih =>
    obtain ⟨j, rfl⟩ := Nat.exists_eq_add_of_le' (Nat.le_trans hi (Nat.le_of_lt hij))
    exact Nat.lt_trans ih (punctIndex_lt_succ asc j)

theorem punctIndex_inj {i j : Nat} (hi : 1 ≤ i) (hj : 1 ≤ j) (h : punctIndex p i = punctIndex p j) : i = j := by
  rcases Nat.lt_trichotomy i j with hlt | heq | hgt
  · exact absurd h (Nat.ne_of_lt (punctIndex_lt asc hi hlt))
  · exact heq
  · exact absurd h.symm (Nat.ne_of_lt (punctIndex_lt asc hj hgt))

theorem punctIndex_pos {j : Nat} (hj : 1 ≤ j) : 0 < punctIndex p j := by
  have first : punctIndex p (p.t * 0 + 0 + 1) = p.period * 0 + p.P.getD 0 0 := punctIndex_eq asc.remap 0 asc.nonempty
  have start : 0 < punctIndex p 1 := by
    rw [Nat.mul_zero, Nat.mul_zero, Nat.zero_add] at first
    rw [first, Nat.zero_add]
    exact asc.start
  rcases Nat.eq_or_lt_of_le hj with rfl | hlt
  · exact start
  · exact Nat.lt_trans start (punctIndex_lt asc (Nat.le_refl 1) hlt)

end Ascending

theorem depunctureFrom_eq_foldl (p : Puncturer) (j : Nat) (y m : List Soft) :
    depunctureFrom p j y m =
      (List.range y.length).foldl (fun m i => m.set (punctIndex p (j + i) - 1) (y.getD i 0)) m := by
  induction y generalizing j m with
  | nil => rfl
  | cons a y ih =>
    rw [depunctureFrom, ih, List.length_cons, List.range_succ_eq_map, List.foldl_cons, List.foldl_map]
    simp [Nat.add_assoc, Nat.add_comm 1]

/-- Depuncturing scatters the received symbols over erasures (41_codecs R144). -/
theorem depuncture_eq_foldl (p : Puncturer) (y : List Soft) (n : Nat) :
    depuncture p y n = (List.range y.length).foldl (fun m i => m.set (punctIndex p (i + 1) - 1) (y.getD i 0))
      (List.replicate n Config.softErased) := by
  simp only [depuncture, depunctureFrom_eq_foldl, Nat.add_comm 1]

theorem puncture_map_soft_getD (p : Puncturer) (m : Bits) {n i : Nat} (hi : i < n) :
    ((puncture p m n).map soft).getD i 0 = soft (m.getD (punctIndex p (i + 1) - 1) false) := by
  simp [puncture, bitAt, hi]

theorem depuncture_puncture_transmitted {p : Puncturer} (asc : p.Ascending) (m : Bits) {n j k : Nat} (hk : k < m.length)
    (h1 : 1 ≤ j) (hn : j ≤ n) (hj : punctIndex p j = k + 1) :
    (depuncture p ((puncture p m n).map soft) m.length).getD k 0 = soft (m.getD k false) := by
  obtain ⟨i, rfl⟩ := Nat.exists_eq_add_of_le' h1
  obtain rfl : punctIndex p (i + 1) - 1 = k := by omega
  have inj (i j : Nat) (h : punctIndex p (i + 1) - 1 = punctIndex p (j + 1) - 1) : i = j := by
    have hi := punctIndex_pos asc (Nat.le_add_left 1 i)
    have hj := punctIndex_pos asc (Nat.le_add_left 1 j)
    have same : punctIndex p (i + 1) = punctIndex p (j + 1) := by omega
    exact Nat.succ.inj (punctIndex_inj asc (Nat.le_add_left 1 i) (Nat.le_add_left 1 j) same)
  have sent : i ∈ List.range ((puncture p m n).map soft).length := by
    rw [List.length_map, puncture_length]
    exact List.mem_range.mpr hn
  rw [depuncture_eq_foldl, getD_foldl_set_of_mem (f := fun i => punctIndex p (i + 1) - 1) (fun i _ j _ => inj i j) sent
    (by rwa [List.length_replicate]), puncture_map_soft_getD p m hn]

theorem depuncture_puncture_erased {p : Puncturer} (asc : p.Ascending) (m : Bits) {n k : Nat} (hk : k < m.length)
    (h : ¬ ∃ j, 1 ≤ j ∧ j ≤ n ∧ punctIndex p j = k + 1) :
    (depuncture p ((puncture p m n).map soft) m.length).getD k 0 = Config.softErased := by
  have missed : ∀ i ∈ List.range ((puncture p m n).map soft).length, punctIndex p (i + 1) - 1 ≠ k := by
    intro i hi hik
    rw [List.length_map, puncture_length, List.mem_range] at hi
    have hpos := punctIndex_pos asc (Nat.le_add_left 1 i)
    exact h ⟨i + 1, Nat.le_add_left 1 i, hi, by omega⟩
  rw [depuncture_eq_foldl, getD_foldl_set_of_forall_ne missed, List.getD_eq_getElem?_getD,
    List.getElem?_replicate_of_lt hk, Option.getD_some]

/-- Settles O35: both puncturers go up, so depuncturing writes no position twice. -/
theorem depunctureInvertsPuncture : Obligations.DepunctureInvertsPuncture := by
  intro p hp
  have asc : p.Ascending := by
    rcases hp with rfl | rfl
    · exact punct23_ascending
    · exact punct13_ascending
  exact ⟨fun i j => punctIndex_lt asc, fun m n _ k hk =>
    ⟨fun ⟨j, h1, hn, hj⟩ => depuncture_puncture_transmitted asc m hk h1 hn hj, depuncture_puncture_erased asc m hk⟩⟩

end Sys2Proof
end

section
/-! PROOFS. The Viterbi decoder (41_codecs R146 to R153) on a noise-free code word, some of whose symbols are erased but
no `G1` output: the metric of the sender's state leads every other one at every step, since the sender's branch
correlates best and the other branch out of its state differs in `G1`; so the survivors lead back along the sender's
path (O36). -/

namespace Sys2Proof

/-! The trellis of the control-channel code (41_codecs R147). -/

theorem convNext_lt : ∀ s < 16, ∀ b, convNext Config.convK s b < 16 := by decide

theorem trellisInput_convNext : ∀ s < 16, ∀ b, trellisInput cchCfg (convNext Config.convK s b) = b := by decide

/-- The bit that leaves the encoder state tells its predecessor from the other one. -/
theorem trellisPred_convNext : ∀ s < 16, ∀ b, trellisPred cchCfg (convNext Config.convK s b) (s.testBit 0) = s := by
  decide

theorem trellisPred_lt : ∀ s < 16, ∀ x, trellisPred cchCfg s x < 16 := by decide

theorem trellisPred_testBit : ∀ s < 16, ∀ x, (trellisPred cchCfg s x).testBit 0 = x := by decide

/-- A state is entered from its predecessors on its own input bit. -/
theorem convNext_trellisPred : ∀ s < 16, ∀ x,
    convNext Config.convK (trellisPred cchCfg s x) (trellisInput cchCfg s) = s := by decide

/-- The first generator reads the newest bit, so the two branches out of a state differ in it (41_codecs R138). -/
theorem convOut_not : ∀ s < 16, ∀ b,
    convOut Config.convK Config.convGen s (!b) 0 = !convOut Config.convK Config.convGen s b 0 := by decide

/-- The sender's state behind the bits `u` (41_codecs R138). -/
def convState (s : Nat) (u : Bits) : Nat := u.foldl (convNext Config.convK) s

theorem convState_lt {s : Nat} (hs : s < 16) (u : Bits) : convState s u < 16 := by
  induction u generalizing s with
  | nil => exact hs
  | cons b u ih => exact ih (convNext_lt s hs b)

theorem convState_four_zeros : ∀ s < 16, convState s [false, false, false, false] = 0 := by decide

/-- Four tail bits empty the encoder (41_codecs R139). -/
theorem convState_tail (u : Bits) : convState 0 (u ++ [false, false, false, false]) = 0 := by
  rw [convState, List.foldl_append]
  exact convState_four_zeros _ (convState_lt (by decide) u)

/-! Received symbols that agree with a code word. -/

/-- `x` is the symbol of bit `b`, or erased (41_codecs R143, R144). -/
def Agrees (x : Soft) (b : Bool) : Prop := x = soft b ∨ x = Config.softErased

/-- The symbols of `r` are those of the code word `c`, or erased, and no first one of a step is erased. -/
structure Received (r : List Soft) (c : Bits) : Prop where
  length : r.length = c.length
  agrees : ∀ k < c.length, Agrees (r.getD k 0) (c.getD k false)
  leads : ∀ t, 4 * t < c.length → r.getD (4 * t) 0 = soft (c.getD (4 * t) false)

theorem getD_take {α : Type} (v : List α) (d : α) {n k : Nat} (hk : k < n) : (v.take n).getD k d = v.getD k d := by
  rw [List.getD_eq_getElem?_getD, List.getElem?_take_of_lt hk, List.getD_eq_getElem?_getD]

theorem getD_drop {α : Type} (v : List α) (d : α) (n k : Nat) : (v.drop n).getD k d = v.getD (n + k) d := by
  rw [List.getD_eq_getElem?_getD, List.getElem?_drop, List.getD_eq_getElem?_getD]

/-- The first `n` symbols are received from the first `n` bits. -/
theorem Received.take {r : List Soft} {c : Bits} (h : Received r c) (n : Nat) : Received (r.take n) (c.take n) where
  length := by rw [List.length_take, List.length_take, h.length]
  agrees k hk := by
    rw [List.length_take, Nat.lt_min] at hk
    rw [getD_take r 0 hk.1, getD_take c false hk.1]
    exact h.agrees k hk.2
  leads t ht := by
    rw [List.length_take, Nat.lt_min] at ht
    rw [getD_take r 0 ht.1, getD_take c false ht.1]
    exact h.leads t ht.2

/-- Behind the first step the symbols are received from the bits behind it. -/
theorem Received.drop {r : List Soft} {c : Bits} (h : Received r c) : Received (r.drop 4) (c.drop 4) where
  length := by rw [List.length_drop, List.length_drop, h.length]
  agrees k hk := by
    rw [List.length_drop] at hk
    rw [getD_drop, getD_drop]
    exact h.agrees (4 + k) (by omega)
  leads t ht := by
    rw [List.length_drop] at ht
    rw [getD_drop, getD_drop, show 4 + 4 * t = 4 * (t + 1) by omega]
    exact h.leads (t + 1) (by omega)

/-- An agreeing symbol adds most on its own bit, and never takes away. -/
theorem Agrees.term_le {x : Soft} {b : Bool} (h : Agrees x b) :
    (0 ≤ if b then -x else x) ∧ ∀ y : Bool, (if y then -x else x) ≤ if b then -x else x := by
  rcases h with rfl | rfl
  · cases b <;> decide
  · cases b <;> decide

theorem correlate_nil (r : List Soft) : correlate r [] = 0 := by cases r <;> rfl

/-- No branch correlates better with the received symbols than the sender's (41_codecs R148). -/
theorem correlate_le {r : List Soft} {c : Bits} (hlen : r.length = c.length)
    (h : ∀ k < c.length, Agrees (r.getD k 0) (c.getD k false)) (c' : Bits) : correlate r c' ≤ correlate r c := by
  induction r generalizing c c' with
  | nil => exact Int.le_refl 0
  | cons x r ih =>
    cases c with
    | nil => nomatch hlen
    | cons b c =>
      obtain ⟨nonneg, best⟩ := (h 0 (Nat.zero_lt_succ _)).term_le
      have rest := ih (Nat.succ.inj hlen) fun k hk => h (k + 1) (Nat.succ_lt_succ hk)
      cases c' with
      | nil => exact Int.add_nonneg nonneg (correlate_nil r ▸ rest [])
      | cons y c' => exact Int.add_le_add (best y) (rest c')

/-- A branch that differs in a first symbol that is not erased correlates worse. -/
theorem correlate_lt {r : List Soft} {b : Bool} {c : Bits} (h : Received r (b :: c)) (c' : Bits) :
    correlate r ((!b) :: c') < correlate r (b :: c) := by
  obtain ⟨hlen, agrees, leads⟩ := h
  cases r with
  | nil => nomatch hlen
  | cons x r =>
    obtain rfl : x = soft b := leads 0 (Nat.zero_lt_succ _)
    refine Int.add_lt_add_of_lt_of_le ?_
      (correlate_le (Nat.succ.inj hlen) (fun k hk => agrees (k + 1) (Nat.succ_lt_succ hk)) c')
    cases b <;> decide

/-! One step of the forward recursion (41_codecs R149). -/

/-- The metric a state would have if it were entered from its predecessor `x`. -/
def candidate (cfg : ViterbiCfg) (pm : List Metric) (r : List Soft) (s : Nat) (x : Bool) : Metric :=
  metricAdd (pm.getD (trellisPred cfg s x) none) (branchMetric cfg r (trellisPred cfg s x) (trellisInput cfg s))

theorem candidate_eq_some_iff {cfg : ViterbiCfg} {pm : List Metric} {r : List Soft} {s : Nat} {x : Bool} {m : Int} :
    candidate cfg pm r s x = some m ↔ ∃ m₀, pm.getD (trellisPred cfg s x) none = some m₀ ∧
      m₀ + branchMetric cfg r (trellisPred cfg s x) (trellisInput cfg s) = m := by
  unfold candidate
  cases pm.getD (trellisPred cfg s x) none <;> simp [metricAdd]

theorem acsState_eq (cfg : ViterbiCfg) (pm : List Metric) (r : List Soft) (s : Nat) :
    acsState cfg pm r s =
      if metricGe (candidate cfg pm r s false) (candidate cfg pm r s true) then (candidate cfg pm r s false, false)
      else (candidate cfg pm r s true, true) := rfl

/-- The new metric is that of the survivor. -/
theorem acsState_fst (cfg : ViterbiCfg) (pm : List Metric) (r : List Soft) (s : Nat) :
    (acsState cfg pm r s).1 = candidate cfg pm r s (acsState cfg pm r s).2 := by
  rw [acsState_eq]
  split <;> rfl

theorem metricGe_rfl (a : Metric) : metricGe a a = true := by
  cases a <;> simp [metricGe]

theorem metricGe_of_not {a b : Metric} (h : ¬ metricGe a b = true) : metricGe b a = true := by
  cases a with
  | none => cases b <;> rfl
  | some m => cases b with
    | none => exact absurd rfl h
    | some n =>
      have lt : m < n := by simpa [metricGe] using h
      simpa [metricGe] using Int.le_of_lt lt

theorem metricGe_some_iff {a : Metric} {m : Int} : metricGe a (some m) = true ↔ ∃ n, a = some n ∧ m ≤ n := by
  cases a <;> simp [metricGe]

/-- No candidate is better than the new metric. -/
theorem acsState_ge (cfg : ViterbiCfg) (pm : List Metric) (r : List Soft) (s : Nat) (x : Bool) :
    metricGe (acsState cfg pm r s).1 (candidate cfg pm r s x) = true := by
  rw [acsState_eq]
  split
  case isTrue h =>
    cases x with
    | false => exact metricGe_rfl _
    | true => exact h
  case isFalse h =>
    cases x with
    | false => exact metricGe_of_not h
    | true => exact metricGe_rfl _

theorem acsStep_metric_getD {cfg : ViterbiCfg} (pm : List Metric) (r : List Soft) {s : Nat} (hs : s < numStates cfg) :
    (acsStep cfg pm r).1.getD s none = (acsState cfg pm r s).1 := by
  simp [acsStep, hs]

theorem acsStep_survivor_getD {cfg : ViterbiCfg} (pm : List Metric) (r : List Soft) {s : Nat} (hs : s < numStates cfg) :
    (acsStep cfg pm r).2.getD s false = (acsState cfg pm r s).2 := by
  simp [acsStep, hs]

theorem lt_numStates_of_acsStep_metric {cfg : ViterbiCfg} {pm : List Metric} {r : List Soft} {s : Nat} {m : Int}
    (h : (acsStep cfg pm r).1.getD s none = some m) : s < numStates cfg := by
  refine Decidable.byContradiction fun out => ?_
  simp [acsStep, out] at h

/-! The sender's state leads. -/

/-- State `s` has metric `m` and every other state a smaller one, or none. -/
structure Leads (pm : List Metric) (s : Nat) (m : Int) : Prop where
  metric : pm.getD s none = some m
  others : ∀ q ≠ s, ∀ n, pm.getD q none = some n → n < m

/-- Decoding starts from the encoder's state (41_codecs R155). -/
theorem startMetrics_leads : Leads (startMetrics cchCfg) 0 0 where
  metric := rfl
  others q hq n h := by
    have start : startMetrics cchCfg = (List.range 16).map fun s => if s = 0 then some 0 else none := rfl
    rw [start] at h
    by_cases inside : q < 16
    · simp [inside, hq] at h
    · simp [inside] at h

section Step
variable {pm : List Metric} {s : Nat} {m : Int} {b : Bool} {r : List Soft}
  (heard : Received r (convOuts Config.convN Config.convK Config.convGen s b))
include heard

theorem branchMetric_le (q : Nat) (c : Bool) :
    branchMetric cchCfg r q c ≤ branchMetric cchCfg r s b := correlate_le heard.length heard.agrees _

/-- The other branch out of the sender's state differs in the first output, which is not erased. -/
theorem branchMetric_not_lt (hs : s < 16) : branchMetric cchCfg r s (!b) < branchMetric cchCfg r s b := by
  have outs (b : Bool) : ∃ c, convOuts Config.convN Config.convK Config.convGen s b =
      convOut Config.convK Config.convGen s b 0 :: c := ⟨_, rfl⟩
  obtain ⟨c, hc⟩ := outs b
  obtain ⟨c', hc'⟩ := outs (!b)
  show correlate r (convOuts Config.convN Config.convK Config.convGen s (!b)) <
    correlate r (convOuts Config.convN Config.convK Config.convGen s b)
  rw [hc] at heard ⊢
  rw [hc', convOut_not s hs b]
  exact correlate_lt heard c'

variable (hs : s < 16) (lead : Leads pm s m)
include hs lead

omit heard in
theorem candidate_sender : candidate cchCfg pm r (convNext Config.convK s b) (s.testBit 0) =
    some (m + branchMetric cchCfg r s b) := by
  rw [candidate_eq_some_iff, trellisPred_convNext s hs, trellisInput_convNext s hs]
  exact ⟨m, lead.metric, rfl⟩

/-- Every other branch stays behind: it leaves a state that is behind, or the sender's on the other bit. -/
theorem candidate_lt {q : Nat} (hq : q < 16) {x : Bool} {n : Int} (h : candidate cchCfg pm r q x = some n)
    (other : ¬ (q = convNext Config.convK s b ∧ x = s.testBit 0)) : n < m + branchMetric cchCfg r s b := by
  obtain ⟨n₀, hn₀, rfl⟩ := candidate_eq_some_iff.mp h
  by_cases same : trellisPred cchCfg q x = s
  · have hx : x = s.testBit 0 := by rw [← same, trellisPred_testBit q hq]
    have wrong : trellisInput cchCfg q = !b := by
      refine Bool.eq_not_of_ne fun right => other ⟨?_, hx⟩
      rw [← same, ← right, convNext_trellisPred q hq]
    obtain rfl : m = n₀ := Option.some.inj (lead.metric.symm.trans (same ▸ hn₀))
    rw [same, wrong]
    exact Int.add_lt_add_left (branchMetric_not_lt heard hs) m
  · exact Int.add_lt_add_of_lt_of_le (lead.others _ same _ hn₀) (branchMetric_le heard _ _)

/-- The sender's next state is entered from the sender's state. -/
theorem acsState_sender : acsState cchCfg pm r (convNext Config.convK s b) =
    (some (m + branchMetric cchCfg r s b), s.testBit 0) := by
  have best := acsState_ge cchCfg pm r (convNext Config.convK s b) (s.testBit 0)
  rw [candidate_sender hs lead, metricGe_some_iff] at best
  obtain ⟨n, hn, hle⟩ := best
  have fst := acsState_fst cchCfg pm r (convNext Config.convK s b)
  have snd : (acsState cchCfg pm r (convNext Config.convK s b)).2 = s.testBit 0 := by
    refine Decidable.byContradiction fun wrong => ?_
    have behind := candidate_lt heard hs lead (convNext_lt s hs b) (fst.symm.trans hn) fun ⟨_, hx⟩ => wrong hx
    omega
  rw [snd, candidate_sender hs lead] at fst
  exact Prod.ext fst snd

/-- The lead is kept by a step. -/
theorem Leads.step : Leads (acsStep cchCfg pm r).1 (convNext Config.convK s b) (m + branchMetric cchCfg r s b) where
  metric := by
    rw [acsStep_metric_getD pm r (convNext_lt s hs b), acsState_sender heard hs lead]
  others q hq n h := by
    have hlt := lt_numStates_of_acsStep_metric h
    rw [acsStep_metric_getD pm r hlt, acsState_fst] at h
    exact candidate_lt heard hs lead hlt h fun ⟨hq', _⟩ => hq hq'

end Step

/-! Back along the survivors (41_codecs R152). -/

theorem symbolGroups_succ (N L : Nat) (r : List Soft) :
    symbolGroups N (L + 1) r = r.take N :: symbolGroups N L (r.drop N) := by
  simp [symbolGroups, slice, List.range_succ_eq_map, Nat.mul_succ, Nat.add_comm]

theorem tracebackFrom_append (cfg : ViterbiCfg) (s : Nat) (rows rows' : List (List Bool)) (u : Bits) :
    tracebackFrom cfg s (rows ++ rows') u =
      tracebackFrom cfg (tracebackFrom cfg s rows u).1 rows' (tracebackFrom cfg s rows u).2 := by
  induction rows generalizing s u with
  | nil => rfl
  | cons row rows ih => exact ih _ _

/-- From the sender's last state the survivors lead back to its first, along the bits sent. -/
theorem tracebackFrom_forward {pm : List Metric} {s : Nat} {m : Int} {r : List Soft} (hs : s < 16) (lead : Leads pm s m)
    (u : Bits) (heard : Received r (convEncodeWith Config.convN Config.convK Config.convGen s u)) (v : Bits) :
    tracebackFrom cchCfg (convState s u) (forward cchCfg pm (symbolGroups Config.convN u.length r)).2.reverse v =
      (s, u ++ v) := by
  induction u generalizing pm s m r with
  | nil => rfl
  | cons b u ih =>
    have now : Received (r.take 4) (convOuts Config.convN Config.convK Config.convGen s b) := heard.take 4
    have later : Received (r.drop 4) (convEncodeWith Config.convN Config.convK Config.convGen
      (convNext Config.convK s b) u) := heard.drop
    have rest := ih (convNext_lt s hs b) (lead.step now hs) later
    have survivor : (acsStep cchCfg pm (r.take 4)).2.getD (convNext Config.convK s b) false = s.testBit 0 := by
      rw [acsStep_survivor_getD pm _ (convNext_lt s hs b), acsState_sender now hs lead]
    calc tracebackFrom cchCfg (convState s (b :: u))
          (forward cchCfg pm (symbolGroups Config.convN (b :: u).length r)).2.reverse v
        = tracebackFrom cchCfg (convNext Config.convK s b) [(acsStep cchCfg pm (r.take 4)).2] (u ++ v) := by
          rw [List.length_cons, symbolGroups_succ, forward, List.reverse_cons, tracebackFrom_append]
          exact congrArg (fun p => tracebackFrom cchCfg p.1 _ p.2) rest
      _ = (s, b :: (u ++ v)) := by
          simp only [tracebackFrom, survivor, trellisPred_convNext s hs, trellisInput_convNext s hs]

/-- The decoder gives back what was sent if the sender's encoder ends in the all-zero state (41_codecs R153). -/
theorem viterbiCch_of_received {r : List Soft} {u : Bits} (heard : Received r (convEncode u))
    (ends : convState 0 u = 0) : viterbiCch r = u := by
  have steps : r.length / Config.convN = u.length := by
    rw [heard.length, convEncode, convEncodeWith_length, Nat.mul_div_cancel_left _ (by decide)]
  have back := tracebackFrom_forward (by decide) startMetrics_leads u heard []
  rw [ends, ← steps, List.append_nil] at back
  exact congrArg Prod.snd back

/-! What reaches the decoder (41_codecs R142 to R145). -/

theorem getD_map_soft (c : Bits) {k : Nat} (hk : k < c.length) : (c.map soft).getD k 0 = soft (c.getD k false) := by
  simp only [List.getD_eq_getElem?_getD, List.getElem?_map, List.getElem?_eq_getElem hk, Option.map_some,
    Option.getD_some]

theorem received_map_soft (c : Bits) : Received (c.map soft) c where
  length := List.length_map soft
  agrees _ hk := .inl (getD_map_soft c hk)
  leads _ ht := getD_map_soft c ht

/-- Rate 2/3 transmits the first output of every step: place 1 of a period, or 5. -/
theorem exists_punct23_eq (t : Nat) : ∃ j, punctIndex Config.punct23 (j + 1) = 4 * t + 1 := by
  obtain ⟨g, rfl | rfl⟩ : ∃ g, t = 2 * g ∨ t = 2 * g + 1 := ⟨t / 2, by omega⟩
  · refine ⟨3 * g + 0, (punctIndex_eq rfl g (by decide)).trans ?_⟩
    show 8 * g + 1 = _
    omega
  · refine ⟨3 * g + 2, (punctIndex_eq rfl g (by decide)).trans ?_⟩
    show 8 * g + 5 = _
    omega

/-- Behind puncturing at rate 2/3 as far as the code word goes, only other outputs of a step are erased. -/
theorem received_depuncture_puncture (c : Bits) {n : Nat} (whole : c.length < punctIndex Config.punct23 (n + 1)) :
    Received (depuncture Config.punct23 ((puncture Config.punct23 c n).map soft) c.length) c := by
  refine ⟨depuncture_length .., fun k hk => ?_, fun t ht => ?_⟩
  · by_cases sent : ∃ j, 1 ≤ j ∧ j ≤ n ∧ punctIndex Config.punct23 j = k + 1
    · obtain ⟨j, h1, hn, hj⟩ := sent
      exact .inl (depuncture_puncture_transmitted punct23_ascending c hk h1 hn hj)
    · exact .inr (depuncture_puncture_erased punct23_ascending c hk sent)
  · obtain ⟨j, hj⟩ := exists_punct23_eq t
    have within : j + 1 < n + 1 := by
      refine Nat.lt_of_not_le fun beyond => ?_
      rcases Nat.eq_or_lt_of_le beyond with last | later
      · rw [last] at whole; omega
      · have := punctIndex_lt punct23_ascending (Nat.le_add_left 1 n) later; omega
    exact depuncture_puncture_transmitted punct23_ascending c ht (Nat.le_add_left 1 j) (Nat.le_of_lt_succ within) hj

/-- Settles O36: the symbols of the code word, punctured or not, agree with it in every first output. -/
theorem viterbiRecoversNoiseFree : Obligations.ViterbiRecoversNoiseFree := by
  refine ⟨fun _ => rfl, fun u => ⟨viterbiCch_of_received (received_map_soft _) (convState_tail u), fun n _ whole => ?_⟩⟩
  have hlen := convEncodeWith_length Config.convN Config.convK Config.convGen 0 (u ++ [false, false, false, false])
  refine viterbiCch_of_received ?_ (convState_tail u)
  have heard := received_depuncture_puncture (convEncode (u ++ [false, false, false, false])) (n := n) (hlen ▸ whole)
  rwa [convEncode, hlen] at heard

end Sys2Proof
end

section
/-! PROOFS. Detector (42_burst_sync R162): what it means for a pattern to stand at an offset, that at most one does, and
from them what the search returns (O17), for any mask and for the two masks the synchronizer uses. -/

namespace Sys2Proof.Machine

/-! A pattern at an offset. -/

theorem hamming_eq_zero_iff {v u : Bits} (h : v.length = u.length) : hamming v u = 0 ↔ v = u := by
  induction v generalizing u with
  | nil =>
    obtain rfl := List.length_eq_zero_iff.mp h.symm
    simp [hamming]
  | cons a v ih =>
    cases u with
    | nil => simp at h
    | cons b u => simp [hamming, ih (Nat.succ.inj h)]

/-- With no errors allowed, the detector's test is equality with the pattern (42_burst_sync R162, log 12). -/
theorem matchesAt_iff {ty : TrainType} {v : Bits} : matchesAt ty v = true ↔ StandsAt ty v 0 := by
  unfold matchesAt StandsAt slice
  cases Config.tsq ty with
  | none => simp
  | some pat =>
    have exact_match : pat.length ≤ v.length ∧ hamming (v.take pat.length) pat ≤ 0 ↔ v.take pat.length = pat := by
      constructor
      · rintro ⟨fits, errors⟩
        exact (hamming_eq_zero_iff (List.length_take_of_le fits)).mp (Nat.le_zero.mp errors)
      · intro heq
        have hlen : min pat.length v.length = pat.length := List.length_take.symm.trans (congrArg List.length heq)
        have fits : pat.length ≤ v.length := by omega
        exact ⟨fits, Nat.le_of_eq ((hamming_eq_zero_iff (List.length_take_of_le fits)).mpr heq)⟩
    simpa [Config.tsqMaxErr] using exact_match

theorem standsAt_iff_prefix {ty : TrainType} {v : Bits} {off : Nat} :
    StandsAt ty v off ↔ ∃ pat, Config.tsq ty = some pat ∧ pat <+: v.drop off := by
  simp only [StandsAt, slice, List.prefix_iff_eq_take, eq_comm]

theorem standsAt_cons_succ {ty : TrainType} {b : Bool} {v : Bits} {k : Nat} :
    StandsAt ty (b :: v) (k + 1) ↔ StandsAt ty v k := Iff.rfl

theorem tsq_ne_nil (ty : TrainType) : Config.tsq ty ≠ some [] := by cases ty <;> decide

theorem standsAt_lt_length {ty : TrainType} {v : Bits} {off : Nat} (h : StandsAt ty v off) : off < v.length := by
  obtain ⟨pat, hpat, hprefix⟩ := standsAt_iff_prefix.mp h
  refine Nat.lt_of_not_le fun beyond => tsq_ne_nil ty ?_
  rw [List.drop_eq_nil_of_le beyond, List.prefix_nil] at hprefix
  rw [hpat, hprefix]

/-- A pattern that stands somewhere stands at a first offset. -/
theorem exists_first_standsAt {ty : TrainType} {v : Bits} (h : ∃ off, StandsAt ty v off) :
    ∃ off, StandsAt ty v off ∧ ∀ k, k < off → ¬ StandsAt ty v k := by
  obtain ⟨off, stands⟩ := h
  induction off using Nat.strongRecOn with
  | ind off ih =>
    by_cases earlier : ∃ k, k < off ∧ StandsAt ty v k
    · obtain ⟨k, hk, stands'⟩ := earlier
      exact ih k hk stands'
    · exact ⟨off, stands, fun k hk stands' => earlier ⟨k, hk, stands'⟩⟩

theorem searched_iff_mem {ty : TrainType} : Searched ty ↔ ty ∈ [TrainType.sync, TrainType.norm1, TrainType.norm2] := by
  simp [Searched]

/-- No searched pattern starts with another one, so the order of types at one offset cannot matter (42_burst_sync
R162). -/
theorem tsq_prefixFree : ∀ ty ∈ [TrainType.sync, TrainType.norm1, TrainType.norm2],
    ∀ ty' ∈ [TrainType.sync, TrainType.norm1, TrainType.norm2],
      ∀ pat ∈ Config.tsq ty, ∀ pat' ∈ Config.tsq ty', pat <+: pat' → ty = ty' := by decide

theorem standsAt_type_unique {ty ty' : TrainType} {v : Bits} {off : Nat} (hs : Searched ty) (hs' : Searched ty')
    (h : StandsAt ty v off) (h' : StandsAt ty' v off) : ty = ty' := by
  rw [searched_iff_mem] at hs hs'
  obtain ⟨pat, hpat, hprefix⟩ := standsAt_iff_prefix.mp h
  obtain ⟨pat', hpat', hprefix'⟩ := standsAt_iff_prefix.mp h'
  rcases List.prefix_or_prefix_of_prefix hprefix hprefix' with hle | hle
  · exact tsq_prefixFree _ hs _ hs' pat hpat pat' hpat' hle
  · exact (tsq_prefixFree _ hs' _ hs pat' hpat' pat hpat hle).symm

/-! The search. -/

theorem matchHere_eq_some {mask : List TrainType} {v : Bits} {ty : TrainType} (h : matchHere mask v = some ty) :
    Searched ty ∧ ty ∈ mask ∧ StandsAt ty v 0 := by
  have found := List.find?_some h
  rw [Bool.and_eq_true, List.contains_iff_mem, matchesAt_iff] at found
  exact ⟨searched_iff_mem.mpr (List.mem_of_find?_eq_some h), found⟩

theorem matchHere_eq_none {mask : List TrainType} {v : Bits} (h : matchHere mask v = none) {ty : TrainType}
    (hs : Searched ty) (hm : ty ∈ mask) : ¬ StandsAt ty v 0 := by
  have skipped := List.find?_eq_none.mp h ty (searched_iff_mem.mp hs)
  rw [Bool.and_eq_true, List.contains_iff_mem, matchesAt_iff] at skipped
  exact fun stands => skipped ⟨hm, stands⟩

/-- The first match in offset order among the types of a mask (42_burst_sync R162). -/
def FirstAmong (mask : List TrainType) (ty : TrainType) (v : Bits) (off : Nat) : Prop :=
  Searched ty ∧ ty ∈ mask ∧ StandsAt ty v off ∧
    ∀ k, k < off → ∀ ty', Searched ty' → ty' ∈ mask → ¬ StandsAt ty' v k

section
variable {mask : List TrainType} {ty ty' : TrainType} {v : Bits} {off off' : Nat}

theorem FirstAmong.offset_le (h : FirstAmong mask ty v off) (h' : FirstAmong mask ty' v off') : off ≤ off' := by
  obtain ⟨-, -, -, first⟩ := h
  obtain ⟨hs', hm', stands', -⟩ := h'
  exact Nat.le_of_not_lt fun earlier => first off' earlier ty' hs' hm' stands'

theorem FirstAmong.unique (h : FirstAmong mask ty v off) (h' : FirstAmong mask ty' v off') : ty = ty' ∧ off = off' := by
  obtain rfl : off = off' := Nat.le_antisymm (h.offset_le h') (h'.offset_le h)
  obtain ⟨hs, -, stands, -⟩ := h
  obtain ⟨hs', -, stands', -⟩ := h'
  exact ⟨standsAt_type_unique hs hs' stands stands', rfl⟩

theorem FirstAmong.cons {b : Bool} (here : matchHere mask (b :: v) = none) (h : FirstAmong mask ty v off) :
    FirstAmong mask ty (b :: v) (off + 1) := by
  obtain ⟨hs, hm, stands, first⟩ := h
  refine ⟨hs, hm, stands, fun k hk ty' hs' hm' => ?_⟩
  cases k with
  | zero => exact matchHere_eq_none here hs' hm'
  | succ k => exact first k (Nat.lt_of_succ_lt_succ hk) ty' hs' hm'

theorem findTrainSeqFrom_eq_some {n : Nat} (h : findTrainSeqFrom mask n v = some (ty, off)) :
    ∃ k, off = n + k ∧ FirstAmong mask ty v k := by
  induction v generalizing n with
  | nil => simp [findTrainSeqFrom] at h
  | cons b v ih =>
    unfold findTrainSeqFrom at h
    split at h
    next ty₀ here =>
      obtain ⟨rfl, rfl⟩ := Prod.mk.inj (Option.some.inj h)
      obtain ⟨hs, hm, stands⟩ := matchHere_eq_some here
      exact ⟨0, rfl, hs, hm, stands, fun k hk => absurd hk k.not_lt_zero⟩
    next here =>
      obtain ⟨k, rfl, hfirst⟩ := ih h
      exact ⟨k + 1, by omega, hfirst.cons here⟩

theorem findTrainSeqFrom_eq_none {n : Nat} (h : findTrainSeqFrom mask n v = none) (hs : Searched ty) (hm : ty ∈ mask) :
    ¬ StandsAt ty v off := by
  induction v generalizing n off with
  | nil => exact fun stands => absurd (standsAt_lt_length stands) off.not_lt_zero
  | cons b v ih =>
    unfold findTrainSeqFrom at h
    split at h
    · exact absurd h (Option.some_ne_none _)
    next here =>
      cases off with
      | zero => exact matchHere_eq_none here hs hm
      | succ off => exact ih h

theorem findTrainSeq_eq_some_iff : findTrainSeq v mask = some (ty, off) ↔ FirstAmong mask ty v off := by
  have found : ∀ {ty off}, findTrainSeq v mask = some (ty, off) → FirstAmong mask ty v off := by
    intro ty off h
    obtain ⟨k, rfl, hfirst⟩ := findTrainSeqFrom_eq_some h
    rwa [Nat.zero_add]
  refine ⟨found, fun hfirst => ?_⟩
  cases h : findTrainSeq v mask with
  | none =>
    obtain ⟨hs, hm, stands, -⟩ := hfirst
    exact absurd stands (findTrainSeqFrom_eq_none h hs hm)
  | some m =>
    obtain ⟨rfl, rfl⟩ := (found h).unique hfirst
    rfl

theorem findTrainSeq_eq_none_iff :
    findTrainSeq v mask = none ↔ ∀ ty off, Searched ty → ty ∈ mask → ¬ StandsAt ty v off := by
  refine ⟨fun h ty off hs hm => findTrainSeqFrom_eq_none h hs hm, fun absent => ?_⟩
  refine Option.eq_none_iff_forall_not_mem.mpr fun m hm => ?_
  obtain ⟨hs, hmask, stands, -⟩ := findTrainSeq_eq_some_iff.mp hm
  exact absent _ _ hs hmask stands

end

/-- Settles O17: the search stops at its first offset with a match, and only one type can stand there. -/
theorem detectorFindsFirstMatch : Obligations.DetectorFindsFirstMatch :=
  fun _ _ => ⟨fun _ _ => findTrainSeq_eq_some_iff, findTrainSeq_eq_none_iff⟩

/-! The two masks of the synchronizer. -/

theorem findTrainSeq_sync_eq_some {v : Bits} {off : Nat} (stands : StandsAt .sync v off)
    (first : ∀ k, k < off → ¬ StandsAt .sync v k) : findTrainSeq v [.sync] = some (.sync, off) := by
  refine findTrainSeq_eq_some_iff.mpr ⟨.inl rfl, List.mem_singleton_self _, stands, fun k hk ty' _ hm => ?_⟩
  obtain rfl := List.mem_singleton.mp hm
  exact first k hk

theorem findTrainSeq_sync_eq_none {v : Bits} (absent : ∀ off, ¬ StandsAt .sync v off) :
    findTrainSeq v [.sync] = none := by
  refine findTrainSeq_eq_none_iff.mpr fun ty off _ hm => ?_
  obtain rfl := List.mem_singleton.mp hm
  exact absent off

theorem findTrainSeq_all_eq_some_iff {v : Bits} {ty : TrainType} {off : Nat} :
    findTrainSeq v [.sync, .norm1, .norm2] = some (ty, off) ↔ FirstMatch ty v off := by
  rw [findTrainSeq_eq_some_iff]
  constructor
  · rintro ⟨hs, -, stands, first⟩
    exact ⟨hs, stands, fun k hk ty' hs' => first k hk ty' hs' (searched_iff_mem.mp hs')⟩
  · rintro ⟨hs, stands, first⟩
    exact ⟨hs, searched_iff_mem.mp hs, stands, fun k hk ty' hs' _ => first k hk ty' hs'⟩

theorem findTrainSeq_all_eq_none {v : Bits} (absent : ∀ ty off, ¬ FirstMatch ty v off) :
    findTrainSeq v [.sync, .norm1, .norm2] = none :=
  Option.eq_none_iff_forall_not_mem.mpr fun _ hm => absent _ _ (findTrainSeq_all_eq_some_iff.mp hm)

end Sys2Proof.Machine
end

section
/-! PROOFS. Synchronizer (42_burst_sync R163 to R174): the step in each row of the transition table as named operations,
what completes a slot, and from them `PUSH_BIT` in each state (O13 to O16) and the transition table (O18); every step
keeps the synchronizer's invariant (O19). -/

namespace Sys2Proof.Machine

/-- Settles O19: no instruction breaks the synchronizer's invariant, and neither the port nor an event bears on it. -/
theorem synchronizerInvariantKept : Obligations.SynchronizerInvariantKept :=
  fun _ _ hok h => step_keeps (P := fun s => s.sync.Ok) (fun _ _ _ => id) exec_keeps_sync_ok h hok

/-! The rows of the synchronizer step. -/

theorem State.moveSync_of_state {s : State} {old : SyncState} (h : s.sync.state = old) (new : SyncState) :
    s.moveSync new = (s.setSyncState new).emit (.syncInd old new) := by
  rw [State.moveSync, h]

section
variable {s : State}

theorem syncStep_unlocked_absent (hs : s.sync.state = .unlocked) (absent : ∀ off, ¬ StandsAt .sync s.sync.bitbuf off) :
    syncStep s = if 37 < s.bitbufLen then s.bitbufDiscard (s.bitbufLen - 37) else s := by
  simp only [syncStep, hs, unlockedStep, findTrainSeq_sync_eq_none absent]
  rfl

theorem syncStep_unlocked_first {off : Nat} (hs : s.sync.state = .unlocked) (stands : StandsAt .sync s.sync.bitbuf off)
    (first : ∀ k, k < off → ¬ StandsAt .sync s.sync.bitbuf k) :
    syncStep s = ((s.setNextFrameStart (s.sync.startBitnum + off + 296)).setSyncState .knowFrameStart).emit
      (.syncInd .unlocked .knowFrameStart) := by
  simp only [syncStep, hs, unlockedStep, findTrainSeq_sync_eq_some stands first]
  exact State.moveSync_of_state (s := s.setNextFrameStart (s.sync.startBitnum + off + 296)) hs _

theorem syncStep_know_before (hs : s.sync.state = .knowFrameStart)
    (before : s.sync.startBitnum + s.bitbufLen < s.sync.nextFrameStart) : syncStep s = s := by
  simp only [syncStep, hs, knowStep, if_neg (Nat.not_le_of_lt before)]

theorem syncStep_know_reached (hs : s.sync.state = .knowFrameStart)
    (reached : s.sync.nextFrameStart ≤ s.sync.startBitnum + s.bitbufLen) :
    syncStep s = ((s.bitbufDiscard (s.sync.nextFrameStart - s.sync.startBitnum)).setSyncState .locked).emit
      (.syncInd .knowFrameStart .locked) := by
  simp only [syncStep, hs, knowStep, if_pos reached]
  exact State.moveSync_of_state (s := s.bitbufDiscard _) hs _

theorem syncStep_locked_before (hs : s.sync.state = .locked) (before : s.bitbufLen < 510) : syncStep s = s := by
  simp only [syncStep, hs]
  exact if_pos before

theorem syncStep_locked_slot (hs : s.sync.state = .locked) (whole : 510 ≤ s.bitbufLen) :
    syncStep s =
      (slotVerdict (findTrainSeq s.slot [.sync, .norm1, .norm2]) s.slot s.advanceSlot).bitbufDiscard 510 := by
  simp only [syncStep, hs]
  exact if_neg (Nat.not_lt_of_le whole)

end

/-- Behind the append, `PUSH_BIT` is the synchronizer step and the end of the working registers (46_host_commands
R272). -/
theorem exec_pushBit_of_syncStep {s u : State} {b : Bool} (h : syncStep (s.lockDb.bitbufAppend b) = u) :
    ∃ w : Work, exec (.pushBit b) s = .next (u.withWork w) := by
  subst h
  exact ⟨Work.idle, rfl⟩

theorem le_length_pushed {v : Bits} {b : Bool} {n : Nat} (h : n ≤ v.length + 1) : n ≤ (v ++ [b]).length := by
  rwa [List.length_append]

/-! Before a slot is whole. -/

/-- Settles O13, by the two rows of `UNLOCKED`. -/
theorem pushBitWhileUnlocked : Obligations.PushBitWhileUnlocked := by
  intro s b hs v
  refine ⟨fun absent => exec_pushBit_of_syncStep ?_, fun off stands first => exec_pushBit_of_syncStep ?_⟩
  · rw [syncStep_unlocked_absent (s := s.lockDb.bitbufAppend b) hs absent]
    by_cases long : 37 < v.length
    · rw [if_pos long]
      exact if_pos long
    · rw [if_neg long]
      exact if_neg long
  · exact syncStep_unlocked_first hs stands first

/-- Settles O14, by the rows of `KNOW_FRAME_START` and the first of `LOCKED`. -/
theorem pushBitUpToSlotEnd : Obligations.PushBitUpToSlotEnd := by
  intro s b v d kept
  refine ⟨fun hs before => exec_pushBit_of_syncStep (syncStep_know_before hs before),
    fun hs reached => exec_pushBit_of_syncStep (syncStep_know_reached hs reached), fun hs hok reached => ?_,
    fun hs before => exec_pushBit_of_syncStep (syncStep_locked_before hs before)⟩
  have hlen : v.length = s.sync.bitbuf.length + 1 := List.length_append
  have hd : d = s.sync.nextFrameStart - s.sync.startBitnum := rfl
  simp only [SyncRegs.Ok, hs] at hok
  obtain ⟨-, atMost, hnext⟩ := hok
  exact ⟨List.drop_eq_nil_of_le (by omega), by omega⟩

/-! The completion of a slot. -/

theorem State.advanceSlot_of_boundary {s : State} (h : (s.time.addTn 1).atBoundary = true) :
    s.advanceSlot = (s.withTime (s.time.addTn 1)).fragAgeAll := if_pos h

theorem State.advanceSlot_within {s : State} (h : ¬ (s.time.addTn 1).atBoundary = true) :
    s.advanceSlot = s.withTime (s.time.addTn 1) := if_neg h

/-- The time advance with the boundary written out (40_tdma_time R119). -/
theorem State.advanceSlot_eq (s : State) : s.advanceSlot =
    if (s.time.addTn 1).fn = 18 ∧ (s.time.addTn 1).tn = 1 then (s.withTime (s.time.addTn 1)).fragAgeAll
    else s.withTime (s.time.addTn 1) := by
  simp [State.advanceSlot, Time.atBoundary]

theorem State.fragAge_withSync_withDb (s : State) (r : SyncRegs) (d : Db) (tn : BitVec 3) :
    ((s.withSync r).withDb d).fragAge tn = ((s.fragAge tn).withSync r).withDb d := by
  unfold State.fragAge
  rw [show ((s.withSync r).withDb d).fragAt tn = s.fragAt tn from rfl]
  dsimp only
  split
  · split <;> rfl
  · rfl

/-- The time advance and the aging of slots neither read nor write the synchronizer and the tables (42_burst_sync
R167). -/
theorem State.advanceSlot_withSync_withDb (s : State) (r : SyncRegs) (d : Db) :
    ((s.withSync r).withDb d).advanceSlot = ((s.advanceSlot).withSync r).withDb d := by
  have aged (u : State) : ((u.withSync r).withDb d).fragAgeAll = ((u.fragAgeAll).withSync r).withDb d := by
    simp only [State.fragAgeAll, State.fragAge_withSync_withDb]
  by_cases boundary : (s.time.addTn 1).atBoundary = true
  · rw [State.advanceSlot_of_boundary boundary, State.advanceSlot_of_boundary (s := (s.withSync r).withDb d) boundary]
    exact aged (s.withTime (s.time.addTn 1))
  · rw [State.advanceSlot_within boundary, State.advanceSlot_within (s := (s.withSync r).withDb d) boundary]
    rfl

/-- The state in which the verdict on a slot falls: advanced, with the pushed bit in M1 and the tables locked. -/
def State.judging (s : State) (b : Bool) : State :=
  (s.advanceSlot.withSync { s.sync with bitbuf := s.sync.bitbuf ++ [b] }).withDb { s.db with locked := true }

theorem State.advanceSlot_pushed (s : State) (b : Bool) : (s.lockDb.bitbufAppend b).advanceSlot = s.judging b :=
  s.advanceSlot_withSync_withDb _ _

/-- `PUSH_BIT` on the last bit of a slot: the verdict by the slot's first match, and the slot is consumed
(42_burst_sync R167 to R169). -/
theorem exec_pushBit_slot {s : State} {b : Bool} {m : Option (TrainType × Nat)} (hs : s.sync.state = .locked)
    (whole : 510 ≤ s.sync.bitbuf.length + 1)
    (hm : findTrainSeq ((s.sync.bitbuf ++ [b]).take 510) [.sync, .norm1, .norm2] = m) :
    ∃ w : Work, exec (.pushBit b) s = .next
      (((slotVerdict m ((s.sync.bitbuf ++ [b]).take 510) (s.judging b)).bitbufDiscard 510).withWork w) := by
  refine exec_pushBit_of_syncStep ?_
  have whole : 510 ≤ (s.lockDb.bitbufAppend b).bitbufLen := le_length_pushed whole
  rw [syncStep_locked_slot (s := s.lockDb.bitbufAppend b) hs whole, State.advanceSlot_pushed, ← hm]
  rfl

theorem expectedOffset_eq_some_iff {ty : TrainType} {off : Nat} :
    expectedOffset ty = some off ↔ AtExpected ty off := by
  cases ty <;> simp [expectedOffset, AtExpected, Config.offTsqSync, Config.offTsqNorm, eq_comm]

theorem slotVerdict_delivered {ty : TrainType} {off : Nat} (h : AtExpected ty off) (slot : Bits) (s : State) :
    slotVerdict (some (ty, off)) slot s = burstDispatch ty slot s :=
  if_pos (expectedOffset_eq_some_iff.mpr h)

theorem slotVerdict_misplaced {ty : TrainType} {off : Nat} (h : ¬ AtExpected ty off) (slot : Bits) (s : State) :
    slotVerdict (some (ty, off)) slot s = s.loseSync (some (ty, off)) :=
  if_neg (mt expectedOffset_eq_some_iff.mp h)

/-- Synchronization loss out of `LOCKED` (42_burst_sync R168): the state, and two events. -/
theorem State.loseSync_of_locked {s : State} (hs : s.sync.state = .locked) (m : Option (TrainType × Nat)) :
    s.loseSync m = (s.setSyncState .unlocked).withEvents
      (s.events ++ [.diag .eSyncLoss (syncLossInfo m), .syncInd .locked .unlocked]) := by
  rw [State.loseSync, State.moveSync_of_state (s := s.raise .eSyncLoss _) hs, List.append_cons]
  rfl

/-- `info` of a misplaced match: the type code above bit 16, the offset below (60_exceptions R281). -/
theorem syncLossInfo_match {ty : TrainType} {off : Nat} (hs : Searched ty) (hoff : off < 2 ^ 16) :
    syncLossInfo (some (ty, off)) =
      BitVec.ofNat 32 ((if ty = .sync then 3 else if ty = .norm1 then 0 else 1) * 65536 + off) := by
  have hcode : Config.trainTypeCode ty = if ty = .sync then 3 else if ty = .norm1 then 0 else 1 := by
    rcases hs with rfl | rfl | rfl <;> rfl
  rw [syncLossInfo, ← Nat.shiftLeft_add_eq_or_of_lt hoff, Nat.shiftLeft_eq, hcode]

/-- A slot that the verdict drops costs the lock (42_burst_sync R168): nothing but the synchronizer, the tables' lock
and the events differs from the advanced state `a`. -/
theorem exec_pushBit_slot_lost {s a : State} {b : Bool} {m : Option (TrainType × Nat)} {info : BitVec 32}
    (ha : s.advanceSlot = a) (hs : s.sync.state = .locked) (whole : 510 ≤ s.sync.bitbuf.length + 1)
    (hm : findTrainSeq ((s.sync.bitbuf ++ [b]).take 510) [.sync, .norm1, .norm2] = m)
    (lost : ∀ slot u, slotVerdict m slot u = u.loseSync m) (hinfo : syncLossInfo m = info) :
    ∃ w : Work, exec (.pushBit b) s = .next (({ a with
      sync :=
        { s.sync with
          state := .unlocked, bitbuf := (s.sync.bitbuf ++ [b]).drop 510, startBitnum := s.sync.startBitnum + 510 }
      db := { s.db with locked := true }
      events := a.events ++ [.diag .eSyncLoss info, .syncInd .locked .unlocked] } : State).withWork w) := by
  subst ha hinfo
  obtain ⟨w, hw⟩ := exec_pushBit_slot (b := b) hs whole hm
  refine ⟨w, hw.trans ?_⟩
  rw [lost, State.loseSync_of_locked (s := s.judging b) hs]
  rfl

/-- Settles O15: the verdict on a slot without a match, and on one whose first match is misplaced, is its loss. -/
theorem slotLossDropsSlot : Obligations.SlotLossDropsSlot := by
  intro s b hs whole v code time a lost
  refine ⟨fun absent => ?_, fun ty off hfirst misplaced => ?_⟩
  · exact exec_pushBit_slot_lost s.advanceSlot_eq hs whole (findTrainSeq_all_eq_none absent) (fun _ _ => rfl) rfl
  · have ⟨searched, stands, _⟩ := hfirst
    have hoff : off < 2 ^ 16 := by
      have inside := standsAt_lt_length stands
      have slotLen := List.length_take_le 510 v
      omega
    exact exec_pushBit_slot_lost s.advanceSlot_eq hs whole (findTrainSeq_all_eq_some_iff.mpr hfirst)
      (slotVerdict_misplaced misplaced) (syncLossInfo_match searched hoff)

/-- The instruction that a training sequence selects (43_splitter_lower_mac R180, log 1). -/
def burstInstr : TrainType → Instr
  | .sync => .tsqSync
  | .norm1 => .tsqNorm1
  | _ => .tsqNorm2

theorem exec_burstInstr {ty : TrainType} (hs : Searched ty) {s : State} (whole : 510 ≤ s.sync.bitbuf.length) :
    exec (burstInstr ty) s = .next (burstDispatch ty (s.sync.bitbuf.take 510) s) := by
  have hslot : s.hasSlot = true := decide_eq_true whole
  rcases hs with rfl | rfl | rfl <;> exact if_pos hslot

/-- Settles O16: the verdict on a slot whose first match is in place is its burst, which leaves the synchronizer
alone. -/
theorem slotDeliveredRunsBurst : Obligations.SlotDeliveredRunsBurst := by
  intro s b ty off hs whole hfirst inPlace v time a i
  obtain ⟨w, hw⟩ := exec_pushBit_slot (b := b) hs whole (findTrainSeq_all_eq_some_iff.mpr hfirst)
  have hjudging : s.judging b = { a with
      sync := { s.sync with bitbuf := v }, db := { s.db with locked := true } } :=
    congrArg (fun a : State => { a with
      sync := { s.sync with bitbuf := v }, db := { s.db with locked := true } }) s.advanceSlot_eq
  have wholeNow : 510 ≤ (s.judging b).sync.bitbuf.length := le_length_pushed whole
  have kept := (burstDispatch_preserves ty (v.take 510) (s.judging b)).sync
  refine ⟨burstDispatch ty (v.take 510) (s.judging b), w, ?_, hw.trans ?_⟩
  · rw [← hjudging]
    exact exec_burstInstr hfirst.1 wholeNow
  · rw [slotVerdict_delivered inPlace, State.bitbufDiscard, kept]
    rfl

/-! The transition table. -/

/-- No instruction but `RESET` and `PUSH_BIT` writes the synchronizer (42_burst_sync R174). -/
theorem exec_sync_unchanged {i : Instr} {s t : State} (h : exec i s = .next t) (hreset : i ≠ .reset)
    (hpush : ∀ b, i ≠ .pushBit b) : t.sync = s.sync := by
  cases exec_effect h with
  | preserving kept => exact kept.sync
  | reset => exact absurd rfl hreset
  | pushBit b => exact absurd rfl (hpush b)
  | appendNet | appendKey => rfl

/-- Settles O18: each row of `PUSH_BIT` is one of O13 to O16, and of the others only `RESET` writes the register. -/
theorem syncStateTransitions : Obligations.SyncStateTransitions := by
  intro i s t h
  refine ⟨?_, fun hreset hpush => congrArg SyncRegs.state (exec_sync_unchanged h hreset hpush), ?_⟩
  · rintro rfl
    obtain rfl := Host.Outcome.next.inj h
    rfl
  rintro b rfl v
  have stateOf {u : State} {new : SyncState} (hu : ∃ w : Work, exec (.pushBit b) s = .next (u.withWork w))
      (hnew : u.sync.state = new) : t.sync.state = new := by
    obtain ⟨w, hw⟩ := hu
    obtain rfl := Host.Outcome.next.inj (h.symm.trans hw)
    exact hnew
  have hlen : v.length = s.sync.bitbuf.length + 1 := List.length_append
  have unlocked := pushBitWhileUnlocked s b
  have ⟨knowBefore, knowReached, _, lockedBefore⟩ := pushBitUpToSlotEnd s b
  refine ⟨fun hs found => ?_, fun hs absent => ?_, fun hs reached => stateOf (knowReached hs reached) rfl,
    fun hs before => stateOf (knowBefore hs (Nat.lt_of_not_le before)) hs,
    fun hs before => stateOf (lockedBefore hs before) hs, fun hs whole delivered => ?_, fun hs whole dropped => ?_⟩
  · have ⟨_, predicted⟩ := unlocked hs
    obtain ⟨off, stands, first⟩ := exists_first_standsAt found
    exact stateOf (predicted off stands first) rfl
  · have ⟨kept, _⟩ := unlocked hs
    refine stateOf (kept (not_exists.mp absent)) ?_
    dsimp only
    split <;> exact hs
  · obtain ⟨ty, off, hfirst, inPlace⟩ := delivered
    obtain ⟨u, w, -, hw⟩ := slotDeliveredRunsBurst s b ty off hs (hlen ▸ whole) hfirst inPlace
    exact stateOf ⟨w, hw⟩ hs
  · obtain ⟨unmatched, misplaced⟩ := slotLossDropsSlot s b hs (hlen ▸ whole)
    by_cases hmatch : ∃ ty off, FirstMatch ty (v.take 510) off
    · obtain ⟨ty, off, hfirst⟩ := hmatch
      exact stateOf (misplaced ty off hfirst fun inPlace => dropped ⟨ty, off, hfirst, inPlace⟩) rfl
    · exact stateOf (unmatched fun ty off hfirst => hmatch ⟨ty, off, hfirst⟩) rfl

end Sys2Proof.Machine
end

section
/-! PROOFS. The whole coding chain on one block (43_splitter_lower_mac R187 to R191): each stage of the receiver undoes
the sender's, and the check bits of the payload pass (O37). -/

namespace Sys2Proof

/-- What the parameters of a coded block have to meet for the receiver to undo the sender: the interleaver step and the
block length are coprime, the type-2 bits are the payload with 16 check bits and 4 tail bits, and `K` bits at rate 2/3
are the whole code word (30_encoding R89). -/
structure BlockParams.Fit (q : BlockParams) : Prop where
  coprime : Nat.gcd (q.a.getD 0) q.K = 1
  type2 : q.n2 = q.n1 + 16 + 4
  inside : punctIndex Config.punct23 q.K ≤ 4 * q.n2
  whole : 4 * q.n2 < punctIndex Config.punct23 (q.K + 1)

theorem blockParams_fit {sb : SubBlock} (h : sb.coded = true) : (Config.blockParams sb).Fit := by
  cases sb with
  | bbk => nomatch h
  | sb1 | sb2 | ndb | schHu | schF => exact ⟨by decide, by decide, by decide, by decide⟩

theorem scramble_scramble (x : Bits) (init : BitVec 32) : scramble (scramble x init) init = x := by
  obtain ⟨-, -, -, -, -, involution⟩ := scramblerIsInvolution
  obtain ⟨-, -, twice⟩ := involution x init
  exact twice

theorem crcOk_crcAppend (p : Bits) : crcOk (crcAppend p) = true := by
  obtain ⟨-, -, -, -, -, accepted⟩ := crcAcceptsAppended
  obtain ⟨-, passes⟩ := accepted p
  exact passes

theorem crcAppend_length (p : Bits) : (crcAppend p).length = p.length + 16 := by simp [crcAppend]

theorem sendBlock_length (sb : SubBlock) (init : BitVec 32) (p : Bits) :
    (sendBlock sb init p).length = (Config.blockParams sb).K := by
  rw [sendBlock, scramble_length, blockInterleave_length]

/-- The decoder gets the sender's type-2 bits back: payload, check bits and tail. -/
theorem blockType2_sendBlock {sb : SubBlock} (init : BitVec 32) {p : Bits}
    (fit : (Config.blockParams sb).Fit) (hp : p.length = (Config.blockParams sb).n1) :
    blockType2 sb init (sendBlock sb init p) = crcAppend p ++ [false, false, false, false] := by
  rw [blockType2, sendBlock, scramble_scramble]
  generalize Config.blockParams sb = q at fit hp
  have sent : (crcAppend p ++ [false, false, false, false]).length = q.n2 := by
    rw [List.length_append, crcAppend_length, hp, fit.type2]; rfl
  obtain ⟨-, recovers⟩ := viterbiRecoversNoiseFree
  obtain ⟨-, punctured⟩ := recovers (crcAppend p)
  have deinterleaved := blockDeinterleave_blockInterleave false (q.a.getD 0)
    (puncture Config.punct23 (convEncode (crcAppend p ++ [false, false, false, false])) q.K)
  rw [puncture_length] at deinterleaved
  have decoded := punctured q.K
  rw [sent] at decoded
  rw [← decoded fit.inside fit.whole]
  exact congrArg (fun y => viterbiCch (depuncture Config.punct23 (y.map soft) (4 * q.n2))) (deinterleaved fit.coprime)

theorem slice_append_left {α : Type} {u : List α} {n : Nat} (v : List α) (h : u.length = n) : slice (u ++ v) 0 n = u :=
  List.take_left' h

/-- Settles O37: the payload and the payload with its check bits are the first bits of what the decoder gives back. -/
theorem noiseFreeBlockRecovered : Obligations.NoiseFreeBlockRecovered := by
  intro sb init p hcoded hp
  have decoded := blockType2_sendBlock init (blockParams_fit hcoded) hp
  refine ⟨sendBlock_length sb init p, ?_, ?_⟩
  · rw [blockType1, decoded, crcAppend, List.append_assoc]
    exact slice_append_left _ hp
  · rw [blockOk, decoded, slice_append_left _ (by rw [crcAppend_length, hp])]
    exact crcOk_crcAppend p

end Sys2Proof
end

section
/-! PROOFS. Bursts and the lower MAC (43_splitter_lower_mac R180 to R199): what the entry of `lower_mac` and each of its
stages leave, and from them the splits of a slot (O39), the drop without a cell (O42), the BBK path (O41), the blocks
that go to the upper MAC (O43) and SB1 (O40). -/

namespace Sys2Proof.Machine

/-! The rows (30_encoding R84, R88, R89). -/

/-- The row of a sub-block runs when the PDU buffer holds exactly its type-5 bits. -/
theorem exec_subBlock {i : Instr} {s u : State} {sb : SubBlock}
    (row : exec i s = if s.hasSubBlock sb then .next u else .fault .subBlockAbsent)
    (held : s.work.pdu.bits.length = (Config.blockParams sb).K) : exec i s = .next u := by
  have there : s.hasSubBlock sb = true := beq_iff_eq.mpr held
  rw [row, if_pos there]

/-- Settles O39: the row of a training sequence runs its split, whose fields are those of the burst maps. -/
theorem burstsSplitIntoSubBlocks : Obligations.BurstsSplitIntoSubBlocks := fun _ whole =>
  ⟨exec_burstInstr (.inl rfl) whole, exec_burstInstr (.inr (.inl rfl)) whole, exec_burstInstr (.inr (.inr rfl)) whole⟩

/-! Entering `lower_mac` (43_splitter_lower_mac R187, R193, R199). -/

theorem lowerMac_of_invalid {s : State} {sb : SubBlock} (hsb : sb ≠ .sb1) (invalid : s.cell.valid = false)
    (type5 : Bits) (blk : BitVec 2) : lowerMac sb type5 blk s = s.dropPdu := if_pos ⟨hsb, invalid⟩

/-- Settles O42: dropping the block leaves an empty PDU buffer and nothing else. -/
theorem subBlocksWaitForCell : Obligations.SubBlocksWaitForCell := by
  intro s invalid
  have dropped {i : Instr} {sb : SubBlock} {blk : BitVec 2} (hsb : sb ≠ .sb1)
      (row : exec i s =
        if s.hasSubBlock sb then .next (lowerMac sb s.work.pdu.bits blk s) else .fault .subBlockAbsent)
      (held : s.work.pdu.bits.length = (Config.blockParams sb).K) : ∃ w : Work, exec i s = .next (s.withWork w) := by
    rw [exec_subBlock row held, lowerMac_of_invalid hsb invalid]
    exact ⟨_, rfl⟩
  exact ⟨dropped (sb := .sb2) nofun rfl, dropped (sb := .ndb) nofun rfl,
    dropped (sb := .bbk) nofun rfl, dropped (sb := .schHu) nofun rfl, dropped (sb := .schF) nofun rfl⟩

theorem State.traffic_iff (s : State) : s.traffic = true ↔ s.mac.isTraffic ≠ 0 := bne_iff_ne

/-- `mac.blk1_stolen` behind the entry of a sub-block (43_splitter_lower_mac R199). -/
def State.blk1StolenBy (s : State) (sb : SubBlock) (blk : BitVec 2) : Bool :=
  if sb = .ndb ∧ blk = 1 ∧ s.traffic then true else s.mac.blk1Stolen

theorem State.blk1StolenBy_of_ne_ndb {sb : SubBlock} (h : sb ≠ .ndb) (s : State) (blk : BitVec 2) :
    s.blk1StolenBy sb blk = s.mac.blk1Stolen := if_neg fun ⟨hndb, _⟩ => h hndb

theorem State.blk1StolenBy_ndb (s : State) (blk : BitVec 2) :
    s.blk1StolenBy .ndb blk = if blk = 1 ∧ s.mac.isTraffic ≠ 0 then true else s.mac.blk1Stolen := by
  simp only [State.blk1StolenBy, true_and, State.traffic_iff]

/-- The scrambler init of a sub-block (43_splitter_lower_mac R188, 41_codecs R131). -/
def State.blockInit (s : State) (sb : SubBlock) : BitVec 32 := if sb = .sb1 then scrambInitSb1 else s.cell.scrambInit

/-- The snapshot of a sub-block (43_splitter_lower_mac R202). -/
def State.blockSnap (s : State) (sb : SubBlock) (blk : BitVec 2) : Snap :=
  { time := s.time, blkNum := blk, subblock := sb }

/-- The state in which the path of a sub-block starts, with the working registers `w`: but for them, only the flag of
block 1 can differ. -/
def State.entered (s : State) (sb : SubBlock) (blk : BitVec 2) (w : Work) : State :=
  ({ s with mac := { s.mac with blk1Stolen := s.blk1StolenBy sb blk } } : State).withWork w

theorem State.entered_of_ne_ndb {sb : SubBlock} (h : sb ≠ .ndb) (s : State) (blk : BitVec 2) (w : Work) :
    s.entered sb blk w = s.withWork w := by
  rw [State.entered, State.blk1StolenBy_of_ne_ndb h]

theorem State.setBlk1Stolen_eq_entered (s : State) (sb : SubBlock) (blk : BitVec 2) :
    (if sb = .ndb ∧ blk = 1 ∧ s.traffic then s.setBlk1Stolen else s) = s.entered sb blk s.work := by
  unfold State.entered State.blk1StolenBy
  split <;> rfl

/-- A sub-block that is not dropped takes one of the three paths, on its descrambled bits. -/
theorem lowerMac_of_admitted {s : State} {sb : SubBlock} (admitted : sb = .sb1 ∨ s.cell.valid = true) (type5 : Bits)
    (blk : BitVec 2) :
    ∃ w : Work, w.snap = s.blockSnap sb blk ∧ w.pdu.bits = scramble type5 (s.blockInit sb) ∧
      lowerMac sb type5 blk s =
        (if sb = .bbk then (s.entered sb blk w).bbkPath
         else if sb = .schF ∧ s.traffic then (s.entered sb blk w).voicePath
         else (s.entered sb blk w).codedPath sb).dropPdu := by
  have stays : ¬ (sb ≠ .sb1 ∧ s.cell.valid = false) := fun ⟨hsb, invalid⟩ =>
    admitted.elim hsb fun valid => Bool.false_ne_true (invalid.symm.trans valid)
  refine ⟨(((s.takeSnap sb blk).loadPdu type5).stageDescramble (s.blockInit sb)).work, rfl, rfl,
    (if_neg stays).trans ?_⟩
  dsimp only
  rw [State.setBlk1Stolen_eq_entered]
  rfl

/-! BBK (43_splitter_lower_mac R196, 45_upper_mac R249, R250). -/

/-- A register as wide as its field holds the field's number. -/
theorem readField_toNat {w : Nat} {f : Field} (h : f.width ≤ w) (v : Bits) :
    (readField w f v).toNat = uint (slice v f.off f.width) := by
  have fits : (slice v f.off f.width).length ≤ w := by rw [slice_length]; omega
  exact (BitVec.toNat_ofNat _ _).trans
    (Nat.mod_eq_of_lt (Nat.lt_of_lt_of_le (uint_lt _) (Nat.pow_le_pow_right (by decide) fits)))

/-- The usage marker in the numbers of the access assignment's fields (45_upper_mac R250). -/
theorem usageMarker_eq (fn : BitVec 5) (aach : Bits) :
    usageMarker fn aach =
      if fn ≠ 18 ∧ uint (aach.take 2) ≠ 0 ∧ 3 < uint (slice aach 2 6) then BitVec.ofNat 6 (uint (slice aach 2 6))
      else 0 := by
  have header : readField 2 Config.aachHeader aach = 0 ↔ uint (aach.take 2) = 0 := by
    rw [← BitVec.toNat_inj, readField_toNat (by decide)]
    exact .rfl
  have field1 : (readField 6 Config.aachField1 aach).toNat = uint (slice aach 2 6) := readField_toNat (by decide) aach
  rw [usageMarker, field1]
  exact ite_congr (propext (and_congr .rfl (and_congr (not_congr header) .rfl))) (fun _ => rfl) fun _ => rfl

theorem State.bbkPath_eq (s : State) : s.bbkPath = { s with
    mac := { s.mac with isTraffic := usageMarker s.work.snap.time.fn (s.work.pdu.bits.take 14) }
    events := s.events ++ [.blockInd s.work.snap .bbk true (s.work.pdu.bits.take 14)] } := rfl

/-- Settles O41: the BBK path on the descrambled bits. -/
theorem bbkSetsTrafficMarker : Obligations.BbkSetsTrafficMarker := by
  intro s held valid aach hdr f1
  obtain ⟨w, hsnap, hbits, run⟩ := lowerMac_of_admitted (sb := .bbk) (.inr valid) s.work.pdu.bits 0
  have path : lowerMac .bbk s.work.pdu.bits 0 s = (s.withWork w).bbkPath.dropPdu := by
    rw [run, if_pos rfl, State.entered_of_ne_ndb (sb := .bbk) nofun]
  rw [exec_subBlock (sb := .bbk) rfl held, bbk, path, State.bbkPath_eq, State.withWork_work, hsnap, hbits,
    usageMarker_eq]
  exact ⟨{ w with pdu := Pdu.empty }, rfl, rfl⟩

/-! Coded blocks (43_splitter_lower_mac R187 to R192). -/

/-- Behind the result of a CRC check `ok` the flag is written, a failure raised and the block reported, with the working
registers `w` (43_splitter_lower_mac R192). -/
def State.reported (s : State) (sb : SubBlock) (ok : Bool) (type1 : Bits) (w : Work) : State :=
  ({ s with
    mac := { s.mac with lastCrcFail := !ok }
    events := s.events ++ (if ok = true then [] else [.diag .eCrcFail (BitVec.ofNat 32 (subBlockCode sb))]) ++
      [.blockInd w.snap sb ok type1] } : State).withWork w

theorem State.reportBlock_eq (s : State) (sb : SubBlock) (type1 : Bits) :
    s.reportBlock sb type1 = s.reported sb s.crcGood type1 s.work := by
  unfold State.reportBlock State.reported
  cases s.crcGood with
  | true => simp only [List.append_nil, if_pos]; rfl
  | false => rfl

/-- The coded stages on the descrambled bits of `type5` write working registers only: the type-2 bits of the block, and
the CRC result (43_splitter_lower_mac R189 to R191). -/
theorem stageDecode_of_descrambled {s : State} {init : BitVec 32} {type5 : Bits} (sb : SubBlock)
    (h : s.work.pdu.bits = scramble type5 init) :
    ∃ w : Work, w.snap = s.work.snap ∧ w.pdu.bits = blockType2 sb init type5 ∧
      (s.withWork w).crcGood = blockOk sb init type5 ∧ s.stageDecode (Config.blockParams sb) = s.withWork w := by
  rw [blockOk, blockType2, ← h]
  exact ⟨(s.stageDecode (Config.blockParams sb)).work, rfl, rfl, rfl, rfl⟩

/-- A coded block is reported, and then committed if it is a good SB1, or passed on with its CRC result if it is none
(43_splitter_lower_mac R187, R194, R197). -/
theorem lowerMac_coded {s : State} {sb : SubBlock} (admitted : sb = .sb1 ∨ s.cell.valid = true) (coded : sb ≠ .bbk)
    (idle : sb = .schF → s.mac.isTraffic = 0) (type5 : Bits) (blk : BitVec 2) :
    let type1 := blockType1 sb (s.blockInit sb) type5
    let ok := blockOk sb (s.blockInit sb) type5
    ∃ w : Work, w.snap = s.blockSnap sb blk ∧
      lowerMac sb type5 blk s =
        (let r := (s.entered sb blk w).reported sb ok type1 w
         if sb = .sb1 then (if ok then r.commitSync type1 else r) else umacBlock type1 ok r).dropPdu := by
  intro type1 ok
  have signalling : ¬ (sb = .schF ∧ s.traffic) := fun ⟨hschF, traffic⟩ => s.traffic_iff.mp traffic (idle hschF)
  obtain ⟨w₀, hsnap₀, hbits₀, run⟩ := lowerMac_of_admitted admitted type5 blk
  obtain ⟨w, hsnap, hbits, hcrc, decoded⟩ := stageDecode_of_descrambled (s := s.entered sb blk w₀) sb hbits₀
  refine ⟨w, hsnap.trans hsnap₀, ?_⟩
  rw [run, if_neg coded, if_neg signalling, State.codedPath]
  dsimp only
  rw [decoded, State.reportBlock_eq, hcrc, State.withWork_work, hbits]
  rfl

/-! Signalling blocks (43_splitter_lower_mac R197). -/

/-- The row of a signalling block: behind the report the type-1 bits go to the upper MAC. -/
theorem exec_signalling {i : Instr} {s : State} {sb : SubBlock} {blk : BitVec 2}
    (row : exec i s = if s.hasSubBlock sb then .next (lowerMac sb s.work.pdu.bits blk s) else .fault .subBlockAbsent)
    (held : s.work.pdu.bits.length = (Config.blockParams sb).K) (valid : s.cell.valid = true) (hsb1 : sb ≠ .sb1)
    (coded : sb ≠ .bbk) (idle : sb = .schF → s.mac.isTraffic = 0) {stolen : Bool}
    (hstolen : s.blk1StolenBy sb blk = stolen) :
    let type1 := blockType1 sb s.cell.scrambInit s.work.pdu.bits
    let ok := blockOk sb s.cell.scrambInit s.work.pdu.bits
    ∃ w : Work, w.snap = s.blockSnap sb blk ∧
      exec i s = .next (umacBlock type1 ok (({ s with
        mac := { s.mac with lastCrcFail := !ok, blk1Stolen := stolen }
        events := s.events ++ (if ok = true then [] else [.diag .eCrcFail (BitVec.ofNat 32 (subBlockCode sb))]) ++
          [.blockInd (s.blockSnap sb blk) sb ok type1] } : State).withWork w)).dropPdu := by
  intro type1 ok
  subst hstolen
  obtain ⟨w, hsnap, run⟩ := lowerMac_coded (.inr valid) coded idle s.work.pdu.bits blk
  have hinit : s.blockInit sb = s.cell.scrambInit := if_neg hsb1
  rw [exec_subBlock row held, run, hinit]
  dsimp only
  rw [if_neg hsb1, State.reported, hsnap]
  exact ⟨w, hsnap, rfl⟩

/-- Settles O43: the four rows of signalling blocks; only `NDB` can set the flag. -/
theorem signallingBlockGoesToUpperMac : Obligations.SignallingBlockGoesToUpperMac := by
  intro s valid bits init result
  have kept (sb : SubBlock) (hndb : sb ≠ .ndb) (blk : BitVec 2) := State.blk1StolenBy_of_ne_ndb hndb s blk
  exact ⟨fun held => exec_signalling (sb := .sb2) rfl held valid nofun nofun nofun (kept .sb2 nofun _),
    fun held => exec_signalling (sb := .ndb) rfl held valid nofun nofun nofun (s.blk1StolenBy_ndb _),
    fun held => exec_signalling (sb := .schHu) rfl held valid nofun nofun nofun (kept .schHu nofun _),
    fun held idle =>
      exec_signalling (sb := .schF) rfl held valid nofun nofun (fun _ => idle) (kept .schF nofun _)⟩

/-! SB1 (43_splitter_lower_mac R194). -/

theorem State.commitSync_inRange {s : State} {type1 : Bits} {f : SyncPdu} (hf : readSyncPdu type1 = f)
    (inRange : f.inRange = true) : s.commitSync type1 = { s with
      cell :=
        { mcc := f.mcc, mnc := f.mnc, cc := f.cc,
          scrambInit := scrambInit f.mcc.toNat f.mnc.toNat f.cc.toNat, valid := true }
      time := { s.time with tn := f.tn.setWidth 3 + 1, fn := f.fn, mn := f.mn }
      cs := { s.cs with
        mcc := some f.mcc, mnc := some f.mnc, cc := some f.cc
        network := lookupNetwork s.db (some f.mcc) (some f.mnc)
        cck := getKsgKey s.db (lookupNetwork s.db (some f.mcc) (some f.mnc)) s.cs.cckId } } := by
  subst hf
  exact if_pos inRange

theorem State.commitSync_outOfRange {s : State} {type1 : Bits} {f : SyncPdu} (hf : readSyncPdu type1 = f)
    (out : ¬ f.inRange = true) :
    s.commitSync type1 = s.raiseNat .wSyncFieldRange ((f.fn.toNat <<< 8) ||| f.mn.toNat) := by
  subst hf
  exact if_neg out

theorem SyncPdu.inRange_iff (f : SyncPdu) :
    f.inRange = true ↔ (1 ≤ f.fn.toNat ∧ f.fn.toNat ≤ 18) ∧ (1 ≤ f.mn.toNat ∧ f.mn.toNat ≤ 60) :=
  decide_eq_true_iff.trans and_assoc.symm

/-- Settles O40: the report, then the commit if the CRC passed, in its two branches. -/
theorem sb1CommitsOnlyOnGoodCrc : Obligations.Sb1CommitsOnlyOnGoodCrc := by
  intro s held type1 field f snap inRange
  have hf : readSyncPdu type1 = f := rfl
  have hrange : f.inRange = true ↔ inRange := f.inRange_iff
  obtain ⟨w, hsnap, path⟩ := lowerMac_coded (s := s) (sb := .sb1) (.inl rfl) nofun nofun s.work.pdu.bits 1
  have run : exec .sb1 s = .next (lowerMac .sb1 s.work.pdu.bits 1 s) := exec_subBlock (sb := .sb1) rfl held
  have hinit : s.blockInit .sb1 = 3 := rfl
  rw [path, hinit] at run
  dsimp only at run
  rw [if_pos rfl, State.entered_of_ne_ndb (sb := .sb1) nofun, State.reported, hsnap] at run
  refine ⟨fun bad => ⟨{ w with pdu := Pdu.empty }, rfl, run.trans ?_⟩,
    fun good out => ⟨{ w with pdu := Pdu.empty }, rfl, run.trans ?_⟩,
    fun good within => ⟨{ w with pdu := Pdu.empty }, rfl, run.trans ?_⟩⟩
  · rw [bad, if_neg Bool.false_ne_true, if_neg Bool.false_ne_true, List.append_assoc]
    rfl
  · rw [good, if_pos rfl, if_pos rfl, State.commitSync_outOfRange hf (mt hrange.mp out), List.append_nil,
      List.append_cons s.events]
    rfl
  · rw [good, if_pos rfl, if_pos rfl, State.commitSync_inRange hf (hrange.mpr within), List.append_nil]
    rfl

end Sys2Proof.Machine
end

section
/-! PROOFS. Keystream and the voice path (43_splitter_lower_mac R200, 44_crypto R216 to R220): what generating a
keystream leaves, once for every network and key, and from it the voice block (O44). -/

namespace Sys2Proof.Machine

/-! The generators (44_crypto R216). -/

/-- The generator a KSG type code selects, if it is supported (30_encoding R101, 44_crypto R216). -/
def ksgGenerator (t : BitVec 8) : Option (BitVec 32 → BitVec 80 → Nat → BitVec 8) :=
  if t = 1 then some Config.ksgTea1Byte
  else if t = 2 then some Config.ksgTea2Byte
  else if t = 3 then some Config.ksgTea3Byte
  else none

theorem decodeKsg_cases (t : BitVec 8) :
    (decodeKsg t = .ksgTea1 ∧ ksgGenerator t = some Config.ksgTea1Byte) ∨
      (decodeKsg t = .ksgTea2 ∧ ksgGenerator t = some Config.ksgTea2Byte) ∨
      (decodeKsg t = .ksgTea3 ∧ ksgGenerator t = some Config.ksgTea3Byte) ∨
      (decodeKsg t = .ksgUnsupported t ∧ ksgGenerator t = none) := by
  unfold decodeKsg ksgGenerator Config.ksgCodeTea1 Config.ksgCodeTea2 Config.ksgCodeTea3
  split
  · exact .inl ⟨rfl, rfl⟩
  · split
    · exact .inr (.inl ⟨rfl, rfl⟩)
    · split
      · exact .inr (.inr (.inl ⟨rfl, rfl⟩))
      · exact .inr (.inr (.inr ⟨rfl, rfl⟩))

theorem ksgGenerator_isSome_iff (t : BitVec 8) : (ksgGenerator t).isSome = true ↔ t = 1 ∨ t = 2 ∨ t = 3 := by
  unfold ksgGenerator
  split
  next h1 => exact iff_of_true rfl (.inl h1)
  next h1 =>
    split
    next h2 => exact iff_of_true rfl (.inr (.inl h2))
    next h2 =>
      split
      next h3 => exact iff_of_true rfl (.inr (.inr h3))
      next h3 => exact iff_of_false Bool.false_ne_true fun h => h.elim h1 fun h => h.elim h2 h3

/-- The dispatch runs the selected generator, or reports its code. -/
theorem ksgDispatch_eq (t : BitVec 8) (s : State) :
    ksgDispatch t s = (ksgGenerator t).elim (ksgUnsupported t s) s.runKsg := by
  unfold ksgDispatch
  rcases decodeKsg_cases t with ⟨hd, hg⟩ | ⟨hd, hg⟩ | ⟨hd, hg⟩ | ⟨hd, hg⟩ <;> (rw [hd, hg]; rfl)

theorem ksgSupported_eq (t : BitVec 8) : ksgSupported t = (ksgGenerator t).isSome := by
  unfold ksgSupported
  rcases decodeKsg_cases t with ⟨hd, hg⟩ | ⟨hd, hg⟩ | ⟨hd, hg⟩ | ⟨hd, hg⟩ <;> (rw [hd, hg]; rfl)

/-! The keystream (44_crypto R218). -/

/-- Every crypto field a keystream is made from is known, and a network matches (44_crypto R218). -/
structure State.KsgReady (s : State) (cn : BitVec 12) (la : BitVec 14) (cc : BitVec 6) (hn : BitVec 16)
    (net : NetEntry) : Prop where
  cn : s.cs.cn = some cn
  la : s.cs.la = some la
  cc : s.cs.cc = some cc
  cckId : ∃ id, s.cs.cckId = some id
  hn : s.cs.hn = some hn
  net : matchedNet s.db s.cs.network = some net

section
variable {s : State} {cn : BitVec 12} {la : BitVec 14} {cc : BitVec 6} {hn : BitVec 16} {net : NetEntry}

theorem State.keystream_of_ready (ready : s.KsgReady cn la cc hn net) (key : Nat) (t : Time) :
    s.keystream key t = (ksgGenerator net.ksgType).bind fun g => s.db.keys[key]?.map fun k =>
      expandBytes (ksgBytes g (buildIv t hn 0) (Config.tb5 cn la cc k.key) 54) := by
  obtain ⟨hcn, hla, hcc, ⟨id, hid⟩, hhn, hnet⟩ := ready
  unfold State.keystream ksgGenerator
  rw [hcn, hla, hcc, hid, hhn, hnet]
  cases s.db.keys[key]? with
  | none => simp only [Option.map_none, Option.bind_fun_none]
  | some k =>
    dsimp only
    split
    · rfl
    · split
      · rfl
      · split <;> rfl

theorem State.ksgReport_of_ready (ready : s.KsgReady cn la cc hn net) :
    s.ksgReport =
      if (ksgGenerator net.ksgType).isSome then [] else [.diag .eKsgUnsupported (net.ksgType.setWidth 32)] := by
  obtain ⟨hcn, hla, hcc, ⟨id, hid⟩, hhn, hnet⟩ := ready
  unfold State.ksgReport ksgGenerator
  rw [hcn, hla, hcc, hid, hhn, hnet]
  exact ite_congr (propext (ksgGenerator_isSome_iff _).symm) (fun _ => rfl) fun _ => rfl

theorem generateKeystream_of_ready (ready : s.KsgReady cn la cc hn net) (key : Nat) :
    generateKeystream key s = (ksgGenerator net.ksgType).elim (ksgUnsupported net.ksgType s) fun g =>
      s.db.keys[key]?.elim (s.setKs []) fun k =>
        (s.setKsgInputs (buildIv s.work.snap.time hn 0) (Config.tb5 cn la cc k.key)).runKsg g := by
  obtain ⟨hcn, hla, hcc, ⟨id, hid⟩, hhn, hnet⟩ := ready
  unfold generateKeystream
  simp only [hcn, hla, hcc, hid, hhn, hnet, ksgSupported_eq, ksgDispatch_eq]
  cases ksgGenerator net.ksgType with
  | none => rfl
  | some g => cases s.db.keys[key]? <;> rfl

end

/-- While some crypto field is unknown or no network matches there is no keystream, and nothing is reported. -/
theorem keystream_of_not_ready {s : State} (h : ¬ ∃ cn la cc hn net, s.KsgReady cn la cc hn net) (key : Nat) :
    (∀ t, s.keystream key t = none) ∧ s.ksgReport = [] ∧ generateKeystream key s = s.setKs [] := by
  refine ⟨fun t => ?_, ?_, ?_⟩
  · unfold State.keystream
    split
    next hcn hla hcc hid hhn hnet _ => exact absurd ⟨_, _, _, _, _, hcn, hla, hcc, ⟨_, hid⟩, hhn, hnet⟩ h
    next => rfl
  · unfold State.ksgReport
    split
    next hcn hla hcc hid hhn hnet => exact absurd ⟨_, _, _, _, _, hcn, hla, hcc, ⟨_, hid⟩, hhn, hnet⟩ h
    next => rfl
  · unfold generateKeystream
    split
    next hcn hla hcc hid hhn =>
      split
      next => rfl
      next hnet => exact absurd ⟨_, _, _, _, _, hcn, hla, hcc, ⟨_, hid⟩, hhn, hnet⟩ h
    next => rfl

/-- Generating a keystream writes the working registers, with the keystream in its buffer, and reports an unsupported
generator. -/
theorem generateKeystream_eq (key : Nat) (s : State) :
    ∃ w : Work, w.snap = s.work.snap ∧ w.ks = (s.keystream key s.work.snap.time).getD [] ∧
      generateKeystream key s = ({ s with events := s.events ++ s.ksgReport } : State).withWork w := by
  by_cases h : ∃ cn la cc hn net, s.KsgReady cn la cc hn net
  · obtain ⟨cn, la, cc, hn, net, ready⟩ := h
    rw [generateKeystream_of_ready ready, State.keystream_of_ready ready, State.ksgReport_of_ready ready]
    cases ksgGenerator net.ksgType with
    | none => exact ⟨{ s.work with ks := [] }, rfl, rfl, rfl⟩
    | some g =>
      rw [Option.isSome_some, if_pos rfl, List.append_nil]
      cases s.db.keys[key]? with
      | none => exact ⟨{ s.work with ks := [] }, rfl, rfl, rfl⟩
      | some k =>
        exact ⟨((s.setKsgInputs (buildIv s.work.snap.time hn 0) (Config.tb5 cn la cc k.key)).runKsg g).work,
          rfl, rfl, rfl⟩
  · obtain ⟨silent, unreported, run⟩ := keystream_of_not_ready h key
    rw [silent, unreported, run, List.append_nil]
    exact ⟨{ s.work with ks := [] }, rfl, rfl, rfl⟩

/-- A keystream is never empty: it is one timeslot of bits. -/
theorem State.keystream_ne_nil {s : State} {key : Nat} {t : Time} {ks : Bits} (h : s.keystream key t = some ks) :
    ks ≠ [] := by
  by_cases hready : ∃ cn la cc hn net, s.KsgReady cn la cc hn net
  · obtain ⟨cn, la, cc, hn, net, ready⟩ := hready
    rw [State.keystream_of_ready ready] at h
    obtain ⟨g, -, hg⟩ := Option.bind_eq_some_iff.mp h
    obtain ⟨k, -, rfl⟩ := Option.map_eq_some_iff.mp hg
    exact List.ne_nil_of_length_pos (by simp [ksgBytes])
  · obtain ⟨silent, -, -⟩ := keystream_of_not_ready hready key
    exact nomatch (silent t).symm.trans h

/-! Voice (43_splitter_lower_mac R200, 44_crypto R220). -/

/-- The keystream for the voice block of the snapshot at time `t`: from the selected key, if there is one. -/
def State.voiceKeystream (s : State) (t : Time) : Option Bits := s.cs.cck.bind fun k => s.keystream k t

/-- A voice block goes out under its keystream, if there is one, and otherwise as it came. -/
theorem decryptVoice_eq (v : List Soft) (s : State) :
    ∃ w : Work, w.snap = s.work.snap ∧
      decryptVoice v s =
        ((s.voiceKeystream s.work.snap.time).isSome,
          (s.voiceKeystream s.work.snap.time).elim v fun k => negateUnder v (skipKs s.mac.blk1Stolen k),
          ({ s with events := s.events ++ if s.cs.cck.isSome then s.ksgReport else [] } : State).withWork w) := by
  unfold decryptVoice State.voiceKeystream
  cases s.cs.cck with
  | none => exact ⟨s.work, rfl, by simp [State.withWork]⟩
  | some k =>
    obtain ⟨w, hsnap, hks, run⟩ := generateKeystream_eq k s
    refine ⟨w, hsnap, ?_⟩
    dsimp only
    rw [run, State.withWork_work, hks, Option.isSome_some, if_pos rfl, Option.bind_some]
    cases generated : s.keystream k s.work.snap.time with
    | none => rfl
    | some ks => exact if_neg (State.keystream_ne_nil generated)

/-- The voice path emits the block's symbols, decrypted at the configured point (43_splitter_lower_mac R201), and but
for the events writes working registers only. -/
theorem State.voicePath_eq (s : State) :
    ∃ w : Work, s.voicePath = ({ s with
      events := s.events ++ (if s.cs.cck.isSome then s.ksgReport else []) ++
        [.voiceInd s.work.snap (s.voiceKeystream s.work.snap.time).isSome
          ((s.voiceKeystream s.work.snap.time).elim (s.work.pdu.bits.map soft) fun k =>
            negateUnder (s.work.pdu.bits.map soft) (skipKs s.mac.blk1Stolen k))] } : State).withWork w := by
  obtain ⟨w, hsnap, run⟩ := decryptVoice_eq (s.work.pdu.bits.map soft) s
  refine ⟨w, ?_⟩
  rw [State.voicePath, Config.voiceDecryptPoint]
  dsimp only
  rw [run, State.withWork_work, hsnap]
  rfl

/-- Settles O44: the voice path on the descrambled bits. -/
theorem voiceBlockDecrypted : Obligations.VoiceBlockDecrypted := by
  intro s valid hmarker held v snap ks out
  have traffic : s.traffic = true := s.traffic_iff.mpr hmarker
  obtain ⟨w, hsnap, hbits, run⟩ := lowerMac_of_admitted (sb := .schF) (.inr valid) s.work.pdu.bits 1
  obtain ⟨w', path⟩ := (s.withWork w).voicePath_eq
  have hout : out = ks.elim v fun k => negateUnder v (skipKs s.mac.blk1Stolen k) := by
    unfold out
    cases ks <;> rfl
  rw [exec_subBlock (sb := .schF) rfl held, schF, run, if_neg nofun, if_pos ⟨rfl, traffic⟩,
    State.entered_of_ne_ndb (sb := .schF) nofun, path, State.withWork_work, hsnap, hbits, hout]
  exact ⟨{ w' with pdu := Pdu.empty }, rfl, rfl⟩

end Sys2Proof.Machine
end

section
/-! PROOFS. Lookups (44_crypto R211 to R213, R222): each lookup gives the first entry that matches (O45), and under host
commands the cached results are never out of date (O23). -/

namespace Sys2Proof.Machine

/-! The linear scans. -/

/-- Entry `i` of the table has the property, and no earlier one has. -/
def FirstAt {α : Type} (table : List α) (P : α → Prop) (i : Nat) : Prop :=
  (∃ x, table[i]? = some x ∧ P x) ∧ ∀ j x, j < i → table[j]? = some x → ¬ P x

theorem findIdx?_eq_some_iff_firstAt {α : Type} {table : List α} {p : α → Bool} {P : α → Prop}
    (hp : ∀ x, p x = true ↔ P x) {i : Nat} : table.findIdx? p = some i ↔ FirstAt table P i := by
  rw [List.findIdx?_eq_some_iff_getElem]
  constructor
  · rintro ⟨hi, matched, before⟩
    refine ⟨⟨_, List.getElem?_eq_getElem hi, (hp _).mp matched⟩, fun j x hj hx hP => ?_⟩
    obtain ⟨_, rfl⟩ := List.getElem?_eq_some_iff.mp hx
    exact before j hj ((hp _).mpr hP)
  · rintro ⟨⟨x, hx, hP⟩, before⟩
    obtain ⟨hi, rfl⟩ := List.getElem?_eq_some_iff.mp hx
    exact ⟨hi, (hp _).mpr hP, fun j hj hpj => before j _ hj (List.getElem?_eq_getElem _) ((hp _).mp hpj)⟩

theorem lookupNetwork_eq_some_iff {db : Db} {mcc : Option (BitVec 10)} {mnc : Option (BitVec 14)} {i : Nat} :
    lookupNetwork db mcc mnc = some i ↔ ∃ a b, mcc = some a ∧ mnc = some b ∧
      FirstAt db.nets (fun e => e.mcc = a.setWidth 16 ∧ e.mnc = b.setWidth 16) i := by
  cases mcc with
  | none => simp [lookupNetwork]
  | some a =>
    cases mnc with
    | none => simp [lookupNetwork]
    | some b =>
      simp only [Option.some.injEq, exists_and_left, exists_eq_left']
      exact findIdx?_eq_some_iff_firstAt (by simp)

theorem getKsgKey_eq_some_iff {db : Db} {network : Option Nat} {cckId : Option (BitVec 16)} {i : Nat} :
    getKsgKey db network cckId = some i ↔ ∃ m e id, network = some m ∧ db.nets[m]? = some e ∧ cckId = some id ∧
      FirstAt db.keys
        (fun k => k.mcc = e.mcc ∧ k.mnc = e.mnc ∧ k.keyType = 4 ∧ k.keyNum = id.setWidth 32) i := by
  cases network with
  | none => simp [getKsgKey, matchedNet]
  | some m =>
    cases hnet : db.nets[m]? with
    | none => simp [getKsgKey, matchedNet, hnet]
    | some e =>
      cases cckId with
      | none => simp [getKsgKey, matchedNet, hnet]
      | some id =>
        simp only [getKsgKey, matchedNet, Option.bind_some, hnet, Option.some.injEq, exists_and_left, exists_eq_left']
        exact findIdx?_eq_some_iff_firstAt (by simp [Config.keyTypeCck, and_assoc])

/-- Settles O45: both results are lookups, and a lookup gives the first entry that matches. -/
theorem lookupsTakeFirstMatch : Obligations.LookupsTakeFirstMatch := fun s =>
  ⟨lookupNetwork s.db s.cs.mcc s.cs.mnc, getKsgKey s.db (lookupNetwork s.db s.cs.mcc s.cs.mnc) s.cs.cckId, rfl,
    fun _ => lookupNetwork_eq_some_iff, fun _ => getKsgKey_eq_some_iff⟩

/-! The cached lookups (44_crypto R222, 20_memory R75). -/

/-- The part of `LookupInv` that is about the core itself and not about what the host will present. -/
def State.LookupsFresh (s : State) : Prop := s.CacheOk ∧ (s.db.locked = false → s.cs = Crypto.reset)

/-- While no crypto field is known, no lookup finds anything, whatever the tables hold. -/
theorem State.lookupsFresh_of_cs_reset {s : State} (h : s.cs = Crypto.reset) : s.LookupsFresh := by
  refine ⟨?_, fun _ => h⟩
  unfold State.CacheOk
  rw [h]
  exact ⟨rfl, rfl⟩

/-- Once the tables are locked, it is enough that the cached indices are right. -/
theorem State.lookupsFresh_of_locked {s : State} (locked : s.db.locked = true) (cache : s.CacheOk) : s.LookupsFresh :=
  ⟨cache, fun unlocked => nomatch locked.symm.trans unlocked⟩

/-- A table load only goes through before any crypto field is known (46_host_commands R274, R275). -/
theorem load_keeps_lookupsFresh {i : Instr} {s t u : State} {n cap : Nat} {code : BitVec 32}
    (run : exec i s = if s.db.locked then .next (s.raise .eDbLocked code)
      else if n = cap then .next (s.raise .eResource code)
      else .next u)
    (cs_kept : u.cs = s.cs) (h : exec i s = .next t) (fresh : s.LookupsFresh) : t.LookupsFresh := by
  rw [run] at h
  split at h
  · obtain rfl := Host.Outcome.next.inj h
    exact fresh
  next hlock =>
    split at h
    · obtain rfl := Host.Outcome.next.inj h
      exact fresh
    · obtain rfl := Host.Outcome.next.inj h
      exact State.lookupsFresh_of_cs_reset (cs_kept.trans (fresh.2 (Bool.of_not_eq_true hlock)))

theorem exec_command_keeps_lookupsFresh {i : Instr} (hi : Laws.rowSpace i = .command) {s t : State}
    (h : exec i s = .next t) (fresh : s.LookupsFresh) : t.LookupsFresh := by
  cases i with
  | nop =>
    obtain rfl := Host.Outcome.next.inj h
    exact fresh
  | reset =>
    obtain rfl := Host.Outcome.next.inj h
    exact State.lookupsFresh_of_cs_reset rfl
  | pushBit b =>
    obtain rfl := Host.Outcome.next.inj h
    have kept := syncStep_preserves (s.lockDb.bitbufAppend b)
    exact State.lookupsFresh_of_locked (congrArg Db.locked kept.db) (kept.cache fresh.1)
  | loadNet | loadKey => exact load_keeps_lookupsFresh rfl (by rfl) h fresh
  | _ => nomatch hi

/-- No instruction reads or writes what the host will present (log 2). -/
theorem exec_port {i : Instr} {s t : State} (h : exec i s = .next t) : t.port = s.port := by
  cases exec_effect h with
  | preserving kept => exact kept.port
  | pushBit b => exact (syncStep_preserves (s.lockDb.bitbufAppend b)).port
  | reset | appendNet | appendKey => rfl

/-- A host command word selects host commands only (30_encoding R80). -/
theorem rowSpace_of_decode_command {w : CmdWord} {i : Instr} (h : decode (.command w) = .instr i) :
    Laws.rowSpace i = .command := by
  cases decodeCommand_eq_instr_iff.mp h <;> rfl

/-- Settles O23: a word that the host presents selects a host command or only reports itself, and a host command changes
the tables only while there is nothing to look up. -/
theorem cachedLookupsStayFresh : Obligations.CachedLookupsStayFresh := by
  rintro s t ⟨hostOnly, fresh⟩ h
  rcases step_next_cases h with ⟨-, rfl⟩ | ⟨p, rest, hport, run⟩
  · exact ⟨hostOnly, fresh⟩
  · have ⟨hp, hrest⟩ : p.isCommand = true ∧ rest.all PortWord.isCommand = true := by
      simpa [State.HostOnly, hport] using hostOnly
    have freshNow : ((s.withPort rest).withEvents []).LookupsFresh := fresh
    rcases run with ⟨i, hd, hi⟩ | ⟨w, r, -, -, rfl⟩
    · cases p with
      | command w =>
        have portNow : t.port = rest := exec_port hi
        exact ⟨(congrArg (List.all · PortWord.isCommand) portNow).trans hrest,
          exec_command_keeps_lookupsFresh (rowSpace_of_decode_command hd) hi freshNow⟩
      | _ => nomatch hp
    · exact ⟨hrest, freshNow⟩

end Sys2Proof.Machine
end

section
/-! PROOFS. Keystream and MAC elements (44_crypto R214 to R219, R223): the rows of the generator codes (O48), what
generating a keystream leaves and the packing of the IV (O46), and the decryption of a part of the PDU buffer (O47). -/

namespace Sys2Proof.Machine

/-! The generators (44_crypto R216, R217). -/

theorem State.runKsg_eq (s : State) (g : BitVec 32 → BitVec 80 → Nat → BitVec 8) :
    s.runKsg g = s.setKs ((List.range 54).flatMap fun j => bitsN 8 (g s.work.iv s.work.eck j).toNat) := by
  rw [State.runKsg, expandBytes, ksgBytes, List.flatMap_map]
  rfl

theorem ksgBytes_take (g : BitVec 32 → BitVec 80 → Nat → BitVec 8) (iv : BitVec 32) (eck : BitVec 80) {m n : Nat}
    (h : m ≤ n) : (ksgBytes g iv eck n).take m = ksgBytes g iv eck m := by
  rw [ksgBytes, ← List.map_take, List.take_range, Nat.min_eq_left h, ksgBytes]

/-- Settles O48: a generator's row fills the buffer byte by byte. -/
theorem generatorCodesRun : Obligations.GeneratorCodesRun := by
  refine ⟨?_, fun s k => rfl, fun g iv eck n => (ksgBytes_take g iv eck (Nat.le_succ n)).symm⟩
  intro s filled
  have row {i : Instr} {g : BitVec 32 → BitVec 80 → Nat → BitVec 8} (run : exec i s = .next (s.runKsg g)) :
      exec i s = .next (filled g) := run.trans (congrArg Host.Outcome.next (s.runKsg_eq g))
  exact ⟨row rfl, row rfl, row rfl⟩

/-! The keystream buffer (44_crypto R218). -/

/-- Of the working registers, generating a keystream writes those of the generators only. -/
theorem generateKeystream_work (key : Nat) (s : State) :
    ∃ ks iv eck, (generateKeystream key s).work = { s.work with ks := ks, iv := iv, eck := eck } := by
  by_cases h : ∃ cn la cc hn net, s.KsgReady cn la cc hn net
  · obtain ⟨cn, la, cc, hn, net, ready⟩ := h
    rw [generateKeystream_of_ready ready]
    cases ksgGenerator net.ksgType with
    | none => exact ⟨_, _, _, rfl⟩
    | some g => cases s.db.keys[key]? <;> exact ⟨_, _, _, rfl⟩
  · obtain ⟨-, -, run⟩ := keystream_of_not_ready h key
    rw [run]
    exact ⟨_, _, _, rfl⟩

/-- `generateKeystream_eq` with the registers that are no business of the generators. -/
theorem generateKeystream_frame (key : Nat) (s : State) :
    ∃ w : Work, w.ks = (s.keystream key s.work.snap.time).getD [] ∧ w.pdu = s.work.pdu ∧ w.snap = s.work.snap ∧
      w.crcOk = s.work.crcOk ∧ w.consumed = s.work.consumed ∧
      generateKeystream key s = ({ s with events := s.events ++ s.ksgReport } : State).withWork w := by
  obtain ⟨w, hsnap, hks, run⟩ := generateKeystream_eq key s
  obtain ⟨ks, iv, eck, hwork⟩ := generateKeystream_work key s
  obtain rfl : w = { s.work with ks := ks, iv := iv, eck := eck } := by rw [← hwork, run, State.withWork_work]
  exact ⟨_, hks, rfl, hsnap, rfl, rfl, run⟩

/-- A keystream is one timeslot of bits. -/
theorem State.keystream_length {s : State} {key : Nat} {t : Time} {ks : Bits} (h : s.keystream key t = some ks) :
    ks.length = 432 := by
  by_cases hready : ∃ cn la cc hn net, s.KsgReady cn la cc hn net
  · obtain ⟨cn, la, cc, hn, net, ready⟩ := hready
    rw [State.keystream_of_ready ready] at h
    obtain ⟨g, -, hg⟩ := Option.bind_eq_some_iff.mp h
    obtain ⟨k, -, rfl⟩ := Option.map_eq_some_iff.mp hg
    simp [ksgBytes]
  · obtain ⟨silent, -, -⟩ := keystream_of_not_ready hready key
    exact nomatch (silent t).symm.trans h

/-! The IV (44_crypto R214). -/

/-- The shifted parts of the packing, from the lowest up, are the fields joined from the top. -/
theorem ivPack_eq_append (tn : Nat) (fn : BitVec 5) (mn : BitVec 6) (hn : BitVec 16) (dir : BitVec 1)
    (htn : tn - 1 < 4) :
    Config.ivPack tn fn.toNat mn.toNat hn.toNat dir.toNat =
      (0 : BitVec 3) ++ (dir ++ (hn.setWidth 15 ++ (mn ++ (fn ++ BitVec.ofNat 2 (tn - 1))))) := by
  have packed : ((0 : BitVec 3) ++ (dir ++ (hn.setWidth 15 ++ (mn ++ (fn ++ BitVec.ofNat 2 (tn - 1)))))).toNat =
      (tn - 1) ||| (fn.toNat <<< 2) ||| (mn.toNat <<< 7) ||| ((hn.toNat &&& 0x7FFF) <<< 13) ||| (dir.toNat <<< 28) := by
    have masked : hn.toNat &&& 0x7FFF = hn.toNat % 2 ^ 15 := Nat.and_two_pow_sub_one_eq_mod _ 15
    have turn (a b c d e : Nat) : e ||| (d ||| (c ||| (b ||| a))) = a ||| b ||| c ||| d ||| e := by ac_rfl
    have top : (0 : BitVec 3).toNat = 0 := rfl
    simp only [BitVec.toNat_append, BitVec.toNat_setWidth, BitVec.toNat_ofNat, masked, Nat.mod_eq_of_lt htn, top,
      Nat.zero_shiftLeft, Nat.zero_or]
    exact turn _ _ _ _ _
  refine BitVec.eq_of_toNat_eq ?_
  rw [packed]
  exact Nat.mod_eq_of_lt (packed ▸ BitVec.isLt _)

/-- Settles O46: the frame of the generation, the length of its result, and the packing of the IV. -/
theorem keystreamFollowsNetwork : Obligations.KeystreamFollowsNetwork := fun s key =>
  ⟨generateKeystream_frame key s, fun _ => State.keystream_length,
    fun t hn dir _ htn => ivPack_eq_append t.tn.toNat t.fn t.mn hn dir (by omega)⟩

/-! MAC elements (44_crypto R219, R223). -/

/-! Reading in two joined lists: core Lean, on which the package builds, says it of `[k]?` only. -/

theorem getD_append_left {α : Type} (u v : List α) (d : α) {k : Nat} (hk : k < u.length) :
    (u ++ v).getD k d = u.getD k d := by
  rw [List.getD_eq_getElem?_getD, List.getElem?_append_left hk, List.getD_eq_getElem?_getD]

theorem getD_append_right {α : Type} (u v : List α) (d : α) {k : Nat} (hk : u.length ≤ k) :
    (u ++ v).getD k d = v.getD (k - u.length) d := by
  rw [List.getD_eq_getElem?_getD, List.getElem?_append_right hk, List.getD_eq_getElem?_getD]

/-! The XOR of a part. -/

/-- `v` with its `n` bits from offset `a` on XORed with the first bits of `ks`. -/
def xorSlice (v : Bits) (a n : Nat) (ks : Bits) : Bits := v.take a ++ xorBits (slice v a n) ks ++ v.drop (a + n)

section
variable {v : Bits} {a n : Nat} (inside : a + n ≤ v.length) (ks : Bits)
include inside

theorem xorSlice_length : (xorSlice v a n ks).length = v.length := by
  simp only [xorSlice, List.length_append, List.length_take, xorBits_length, slice_length, List.length_drop]
  omega

theorem xorSlice_getD {k : Nat} (hk : k < v.length) :
    (xorSlice v a n ks).getD k false =
      if a ≤ k ∧ k < a + n then (v.getD k false ^^ ks.getD (k - a) false) else v.getD k false := by
  have hfront : (v.take a).length = a := List.length_take_of_le (by omega)
  have hmiddle : (xorBits (slice v a n) ks).length = n := by rw [xorBits_length, slice_length]; omega
  rw [xorSlice, List.append_assoc]
  by_cases before : k < a
  · rw [if_neg (by omega), getD_append_left _ _ _ (hfront.symm ▸ before), getD_take v false before]
  rw [getD_append_right _ _ _ (by omega), hfront]
  by_cases within : k < a + n
  · rw [if_pos (by omega), getD_append_left _ _ _ (by omega), xorBits_getD _ _ (by rw [slice_length]; omega), slice,
      getD_take _ _ (by omega), getD_drop, Nat.add_sub_cancel' (by omega)]
  · rw [if_neg (by omega), getD_append_right _ _ _ (by omega), hmiddle, getD_drop]
    congr 1
    omega

end

/-- Skipped bits of the keystream are those of the first half slot (44_crypto R219). -/
theorem skipKs_getD (second : Bool) (ks : Bits) (j : Nat) :
    (skipKs second ks).getD j false = ks.getD ((if second then 216 else 0) + j) false := by
  cases second with
  | true => exact getD_drop ks false 216 j
  | false => exact congrArg (ks.getD · false) (Nat.zero_add j).symm

/-- Without a key or a keystream nothing is decrypted and the PDU buffer stands as it was (44_crypto R223). -/
theorem decryptMacElement_fails {s : State} {key : Option Nat}
    (h : (key.bind fun k => s.keystream k s.work.snap.time) = none) (a n : Nat) :
    (decryptMacElement key a n s).1 = false ∧ (decryptMacElement key a n s).2.work.pdu = s.work.pdu := by
  cases key with
  | none => exact ⟨rfl, rfl⟩
  | some k =>
    obtain ⟨w, hks, hpdu, -, -, -, run⟩ := generateKeystream_frame k s
    rw [Option.bind_some] at h
    rw [h] at hks
    simp only [decryptMacElement, run, State.withWork_work, hks, Option.getD_none, ↓reduceIte, hpdu, and_self]

/-- With a keystream the bits are decrypted in place, with its second half for a second half block (44_crypto R219). -/
theorem decryptMacElement_succeeds {s : State} {key : Option Nat} {ks : Bits}
    (h : (key.bind fun k => s.keystream k s.work.snap.time) = some ks) (a n : Nat) :
    (decryptMacElement key a n s).1 = true ∧ (decryptMacElement key a n s).2.work.pdu.bits =
      xorSlice s.work.pdu.bits a n (skipKs (s.work.snap.blkNum == 2) ks) := by
  obtain ⟨k, rfl, hk⟩ := Option.bind_eq_some_iff.mp h
  obtain ⟨w, hks, hpdu, hsnap, -, -, run⟩ := generateKeystream_frame k s
  rw [hk, Option.getD_some] at hks
  simp only [decryptMacElement, run, State.withWork_work, hks, if_neg (State.keystream_ne_nil hk), hpdu, hsnap,
    State.setPduBits_work, xorSlice, and_self]

/-- Settles O47: the two outcomes, the second read bit by bit, and that only working registers are written. -/
theorem macElementDecryption : Obligations.MacElementDecryption := by
  intro s key a n r skip
  refine ⟨fun h => decryptMacElement_fails h a n, fun ks h inside _ => ?_, ?_⟩
  · obtain ⟨done, hbits⟩ := decryptMacElement_succeeds h a n
    refine ⟨done, (congrArg List.length hbits).trans (xorSlice_length inside _), fun k hk => ?_⟩
    have hskip : (if s.work.snap.blkNum == 2 then 216 else 0) = skip := by simp [skip]
    have hbit := xorSlice_getD inside (skipKs (s.work.snap.blkNum == 2) ks) hk
    rw [skipKs_getD, hskip] at hbit
    exact (congrArg (·.getD k false) hbits).trans hbit
  · obtain ⟨w, ev, hr⟩ : s.WorkOnly r.2 := decryptMacElement_workOnly key a n s
    rw [hr]
    rfl

end Sys2Proof.Machine
end

section
/-! PROOFS. Fragment slots (45_upper_mac R251 to R258): what each operation on a slot leaves (O56), the aging step of all
four (O30), and the death of a slot that is never continued (O31). -/

namespace Sys2Proof.Machine

/-! The operations (45_upper_mac R251 to R255). -/

theorem State.fragDiscardStale_eq (s : State) (tn : BitVec 3) : s.fragDiscardStale tn = { s with
    frag := if (s.fragAt tn).active then s.frag.set tn FragSlot.reset else s.frag
    events := s.events ++ if (s.fragAt tn).active then [.diag .eFragReentry (tn.setWidth 32)] else [] } := by
  unfold State.fragDiscardStale
  cases (s.fragAt tn).active with
  | true => rfl
  | false => exact (congrArg s.withEvents (List.append_nil _)).symm

/-- Opening a slot writes it in either case: the new message, or the reset value where a stale one was discarded. -/
theorem State.fragOpen_eq (s : State) (tn : BitVec 3) (sdu : Bits) (enc : Bool) (key : Option Nat) :
    let stale := if (s.fragAt tn).active then [Event.diag .eFragReentry (tn.setWidth 32)] else []
    s.fragOpen tn sdu enc key =
      if fitsFragBuf sdu.length then { s with
        frag := s.frag.set tn
          { active := true, age := 0, numFrags := 1, length := sdu.length, encrypted := enc, key := key, buf := sdu }
        events := s.events ++ stale }
      else { s with
        frag := if (s.fragAt tn).active then s.frag.set tn FragSlot.reset else s.frag
        events := s.events ++ stale ++ [.diag .eResource (tn.setWidth 32)] } := by
  intro stale
  have written (x : FragSlot) :
      (if (s.fragAt tn).active then s.frag.set tn FragSlot.reset else s.frag).set tn x = s.frag.set tn x := by
    split
    · exact FragFile.set_set ..
    · rfl
  unfold State.fragOpen
  rw [State.fragDiscardStale_eq]
  dsimp only
  split
  · exact congrArg (State.withFrag _) (written _)
  · rfl

theorem State.fragAppend_eq (s : State) (tn : BitVec 3) (p : Bits) :
    s.fragAppend tn p =
      if fitsFragBuf ((s.fragAt tn).length + p.length) then { s with
        frag := s.frag.set tn { s.fragAt tn with
          buf := (s.fragAt tn).buf ++ p, length := (s.fragAt tn).length + p.length
          numFrags := (s.fragAt tn).numFrags + 1, age := 0 } }
      else { s with
        frag := s.frag.set tn FragSlot.reset, events := s.events ++ [.diag .eResource (tn.setWidth 32)] } := rfl

theorem State.fragFinalize_eq (s : State) (tn : BitVec 3) :
    s.fragFinalize tn =
      if (s.fragAt tn).active then { s with
        frag := s.frag.set tn FragSlot.reset
        events := s.events ++
          [.sduInd
            { snap := s.work.snap, kind := .reassembled, crcOk := s.work.crcOk
              encMode := if (s.fragAt tn).encrypted then 1 else 0, decrypted := (s.fragAt tn).encrypted
              addr := s.mac.addr, bits := (s.fragAt tn).buf, l2Off := 0 }] }
      else s := rfl

/-- Settles O56: the three operations, and the file read behind a write of one slot. -/
theorem fragmentSlotOperations : Obligations.FragmentSlotOperations := by
  intro s tn p enc key inFile f full stale
  exact ⟨s.fragOpen_eq tn p enc key, s.fragAppend_eq tn p,
    fun x => ⟨FragFile.get_set_same inFile, fun k other => FragFile.get_set_other other⟩, s.fragFinalize_eq tn⟩

/-! Aging (45_upper_mac R256, R257). -/

/-- Writing back what a slot holds changes nothing. -/
theorem FragFile.set_get (f : FragFile) (tn : BitVec 3) : f.set tn (f.get tn) = f := by
  unfold FragFile.set FragFile.get
  split
  · rfl
  · split
    · rfl
    · split
      · rfl
      · split <;> rfl

theorem State.fragAge_eq (s : State) (tn : BitVec 3) : s.fragAge tn = { s with
    frag := s.frag.set tn (s.fragAt tn).aged
    events := s.events ++ (s.fragAt tn).ageReport (tn.setWidth 32) } := by
  unfold State.fragAge FragSlot.aged FragSlot.ageReport
  have limit : Config.n203 = 6 := rfl
  dsimp only
  split
  next active =>
    by_cases old : 6 ≤ (s.fragAt tn).age + 1
    · rw [limit, if_pos old, if_pos old, if_pos ⟨active, old⟩]
      rfl
    · rw [limit, if_neg old, if_neg old, if_neg (not_and_of_not_right _ old), List.append_nil]
      rfl
  next inactive =>
    rw [if_neg (not_and_of_not_left _ inactive), List.append_nil]
    exact (congrArg s.withFrag (s.frag.set_get tn)).symm

theorem State.fragAgeAll_eq (s : State) : s.fragAgeAll = { s with
    frag := { f1 := s.frag.f1.aged, f2 := s.frag.f2.aged, f3 := s.frag.f3.aged, f4 := s.frag.f4.aged }
    events := s.events ++ s.frag.f1.ageReport 1 ++ s.frag.f2.ageReport 2 ++ s.frag.f3.ageReport 3 ++
      s.frag.f4.ageReport 4 } := by
  simp only [State.fragAgeAll, State.fragAge_eq]
  rfl

/-- Settles O30, from the aging of each slot in turn. -/
theorem agingStepOfAllSlots : Obligations.AgingStepOfAllSlots := State.fragAgeAll_eq

/-! A slot that is never continued (45_upper_mac R258). -/

theorem State.fragAgeAll_fragAt (s : State) {tn : BitVec 3} (inFile : tn = 1 ∨ tn = 2 ∨ tn = 3 ∨ tn = 4) :
    s.fragAgeAll.fragAt tn = (s.fragAt tn).aged := by
  rw [State.fragAgeAll_eq]
  rcases inFile with rfl | rfl | rfl | rfl <;> rfl

theorem FragSlot.aged_of_young {f : FragSlot} (active : f.active = true) (young : f.age + 1 < 6) :
    f.aged = { f with age := f.age + 1 } := by
  rw [FragSlot.aged, if_pos active, if_neg (Nat.not_le.mpr young)]

/-- Until its sixth boundary a slot opened with age 0 only grows older. -/
theorem repeat_fragAgeAll_fragAt {s : State} {tn : BitVec 3} (inFile : tn = 1 ∨ tn = 2 ∨ tn = 3 ∨ tn = 4)
    (active : (s.fragAt tn).active = true) (fresh : (s.fragAt tn).age = 0) {k : Nat} (hk : k < 6) :
    (Nat.repeat State.fragAgeAll k s).fragAt tn = { s.fragAt tn with age := k } := by
  induction k with
  | zero => exact congrArg (fun n => { s.fragAt tn with age := n }) fresh
  | succ k ih =>
    rw [Nat.repeat, State.fragAgeAll_fragAt _ inFile, ih (by omega)]
    exact FragSlot.aged_of_young active hk

/-- Settles O31: five boundaries leave the slot its age, the sixth resets it. -/
theorem unfedSlotDiesAtSixthBoundary : Obligations.UnfedSlotDiesAtSixthBoundary := by
  intro s tn inFile active fresh
  have aged {k : Nat} := repeat_fragAgeAll_fragAt inFile active fresh (k := k)
  refine ⟨fun k hk => ?_, ?_⟩
  · rw [aged hk]
    exact ⟨active, rfl⟩
  · rw [Nat.repeat, State.fragAgeAll_fragAt _ inFile, aged (by decide)]
    exact if_pos active

end Sys2Proof.Machine
end

section
/-! PROOFS. The parts of a MAC PDU behind its header (45_upper_mac R239 to R241, R260; 30_encoding R99): the last 1 before
the fill bits (O38), the end that stripping them gives, and the optional elements with their lengths. -/

namespace Sys2Proof.Machine

/-! Fill bits (45_upper_mac R241, R260). -/

theorem firstOne_eq_findIdx? (v : Bits) : firstOne v = (v.findIdx? id).map (· + 1) := by
  induction v with
  | nil => rfl
  | cons b v ih =>
    cases b with
    | true => rfl
    | false => rw [firstOne, ih, List.findIdx?_cons]; rfl

theorem getD_reverse {α : Type} (v : List α) (d : α) {i : Nat} (hi : i < v.length) :
    v.reverse.getD i d = v.getD (v.length - (i + 1)) d := by
  rw [List.getD_eq_getElem?_getD, List.getElem?_reverse hi, List.getD_eq_getElem?_getD, Nat.sub_right_comm, Nat.sub_sub]

theorem fillCount_eq_some_iff {v : Bits} {r : Nat} :
    fillCount v = some r ↔ 1 ≤ r ∧ r ≤ v.length ∧ v.getD (v.length - r) false = true ∧
      ∀ k, 1 ≤ k → k < r → v.getD (v.length - k) false = false := by
  have entry {i : Nat} (hi : i < v.reverse.length) : v.reverse[i] = v.getD (v.length - (i + 1)) false := by
    rw [← getD_reverse v false (List.length_reverse ▸ hi), List.getElem_eq_getD]
  rw [fillCount, firstOne_eq_findIdx?, Option.map_eq_some_iff]
  simp only [List.findIdx?_eq_some_iff_getElem, entry, id_eq, Bool.not_eq_true, List.length_reverse]
  constructor
  · rintro ⟨i, ⟨hi, one, zeros⟩, rfl⟩
    refine ⟨Nat.succ_pos i, hi, one, fun k hk hlt => ?_⟩
    have zero := zeros (k - 1) (by omega)
    rwa [Nat.sub_add_cancel hk] at zero
  · rintro ⟨hpos, hr, one, zeros⟩
    obtain ⟨i, rfl⟩ := Nat.exists_eq_add_of_le' hpos
    exact ⟨i, ⟨hr, one, fun j hj => zeros (j + 1) (Nat.succ_pos j) (Nat.succ_lt_succ hj)⟩, rfl⟩

theorem fillCount_eq_none_iff {v : Bits} : fillCount v = none ↔ ∀ b ∈ v, b = false := by
  rw [fillCount, firstOne_eq_findIdx?, Option.map_eq_none_iff, List.findIdx?_eq_none_iff]
  simp only [List.mem_reverse, id_eq]

/-- Settles O38: the search of the reversed bits, read from the end. -/
theorem fillCountFindsLastOne : Obligations.FillCountFindsLastOne := fun _ =>
  ⟨fun _ => fillCount_eq_some_iff, fillCount_eq_none_iff⟩

/-- Fill-bit stripping moves the end and only warns (45_upper_mac R241). -/
theorem stripFill_eq (fill : Bool) (q e : Nat) (s : State) : stripFill fill q e s =
    (fillEnd fill s.work.pdu.bits q e, { s with
      events := s.events ++ fillReport fill s.work.pdu.bits q e s.snapTn }) := by
  unfold stripFill fillEnd fillReport
  cases fill with
  | false => exact congrArg (fun ev => (e, s.withEvents ev)) (List.append_nil _).symm
  | true =>
    cases counted : fillCount (slice s.work.pdu.bits q (e - q)) with
    | none => rfl
    | some r => exact congrArg (fun ev => (e - r, s.withEvents ev)) (List.append_nil _).symm

/-! The channel allocation element (30_encoding R99). -/

/-- The augmented part of the element, `n` being the offset of the napping status. -/
theorem chanAllocAugmented_eq (v : Bits) (p : Nat) : Config.chanAllocAugmented v p =
    let n := p + 26
    let a := if uint (slice v n 2) = 1 then n + 17 else n + 6
    let b := if v.getD a false = true then a + 17 else a + 1
    if v.getD b false = true then b + 18 else b + 2 := by
  unfold Config.chanAllocAugmented bitAt
  dsimp only
  generalize p + 26 = n
  have napping : n + 2 + (if uint (slice v n 2) = 1 then 11 else 0) + 4 =
      if uint (slice v n 2) = 1 then n + 17 else n + 6 := by split <;> rfl
  rw [napping]
  generalize (if uint (slice v n 2) = 1 then n + 17 else n + 6) = a
  have elementA : a + 1 + (if v.getD a false = true then 16 else 0) =
      if v.getD a false = true then a + 17 else a + 1 := by split <;> rfl
  rw [elementA]
  generalize (if v.getD a false = true then a + 17 else a + 1) = b
  split <;> rfl

theorem chanAllocTotal_eq (v : Bits) : Config.chanAllocTotal v = chanAllocBits v := by
  unfold Config.chanAllocTotal chanAllocBits bitAt
  dsimp only
  have extended : 23 + (if v.getD 22 false = true then 10 else 0) =
      if v.getD 22 false = true then 33 else 23 := by split <;> rfl
  rw [extended]
  generalize (if v.getD 22 false = true then 33 else 23) = m
  have monitoring : m + 2 + (if uint (slice v m 2) = 0 then 2 else 0) =
      if uint (slice v m 2) = 0 then m + 4 else m + 2 := by split <;> rfl
  rw [monitoring, chanAllocAugmented_eq, ite_not]

theorem chanAllocLen_eq_some_iff {v : Bits} {c : Nat} :
    Config.chanAllocLen v = some c ↔ c = chanAllocBits v ∧ c ≤ v.length := by
  rw [Config.chanAllocLen, chanAllocTotal_eq]
  constructor
  · intro h
    split at h
    next fits => exact Option.some.inj h ▸ ⟨rfl, fits⟩
    next => nomatch h
  · rintro ⟨rfl, fits⟩
    exact if_pos fits

/-! The optional elements (45_upper_mac R239, R246). -/

theorem skipFlagged_eq_some_iff {b : Bits} {w q e q' : Nat} :
    skipFlagged b w q e = some q' ↔ Flagged b w q e q' := by
  unfold skipFlagged Flagged bitAt
  by_cases inside : q < e
  · rw [if_pos inside]
    cases b.getD q false with
    | false => simp [inside, eq_comm]
    | true => simp [inside, eq_comm]
  · simp [inside]

theorem skipChanAlloc_eq_some_iff {b : Bits} {q e q' : Nat} :
    skipChanAlloc b q e = some q' ↔ ChanFlagged b q e q' := by
  unfold skipChanAlloc ChanFlagged bitAt
  by_cases inside : q < e
  · rw [if_pos inside]
    cases b.getD q false with
    | false => simp [inside, eq_comm]
    | true => simp [inside, Option.map_eq_some_iff, eq_comm (a := q')]
  · simp [inside]

theorem endElements_eq_some_iff {b : Bits} {h e q : Nat} :
    endElements b h e = some q ↔ ∃ q1, Flagged b 8 h e q1 ∧ ChanFlagged b q1 e q := by
  simp only [endElements, Option.bind_eq_some_iff, skipFlagged_eq_some_iff, skipChanAlloc_eq_some_iff,
    Config.slotGrantingBits]

theorem resourceElements_eq_some_iff {b : Bits} {h e q : Nat} :
    resourceElements b h e = some q ↔ ∃ q1 q2, Flagged b 4 h e q1 ∧ Flagged b 8 q1 e q2 ∧ ChanFlagged b q2 e q := by
  rw [resourceElements, Option.bind_assoc, Option.bind_eq_some_iff]
  refine exists_congr fun q1 => ?_
  have behindPower : (skipFlagged b Config.slotGrantingBits q1 e).bind (fun q => skipChanAlloc b q e) = some q ↔
    ∃ q2, Flagged b 8 q1 e q2 ∧ ChanFlagged b q2 e q := endElements_eq_some_iff
  rw [skipFlagged_eq_some_iff, behindPower, exists_and_left]
  rfl

end Sys2Proof.Machine
end

section
/-! PROOFS. The front of the upper MAC (45_upper_mac R232 to R237, R248): the operation each selector inside the pipeline
runs (O7), the BROADCAST PDUs (O50), the header of a MAC-RESOURCE (O51) and MAC-SUPPLEMENTARY (O59). -/

namespace Sys2Proof.Machine

/-! Selectors inside the pipeline (30_encoding R85, R92, R95, R101). -/

/-- A row with a guard runs where its operand is there. -/
theorem exec_of_guard {i : Instr} {s u : State} {b : Bool} {f : Fault}
    (row : exec i s = if b then .next u else .fault f) (there : b = true) : exec i s = .next u := by
  rw [row, if_pos there]

theorem State.pduRest_length (s : State) : s.pduRest.length = s.pduRem := List.length_drop

theorem State.le_pduRem {s : State} (there : s.hasPdu = true) : 16 ≤ s.pduRem := by
  have fits := (s.hasPdu_iff.mp there).2
  rw [State.pduRem]
  omega

/-- A PDU of 16 bits always selects one of the seven rows, and the dispatcher runs that row (45_upper_mac R232). -/
theorem exec_pduPrefix {s : State} (there : s.hasPdu = true) :
    ∃ i, decodePdu s.pduRest = .instr i ∧ exec i s = .next (umacPdu s) := by
  have long : 16 ≤ s.pduRest.length := s.pduRest_length ▸ State.le_pduRem there
  match hv : s.pduRest with
  | a :: b :: c :: d :: v =>
    rw [umacPdu, hv, decodePdu_cons]
    refine ⟨_, rfl, ?_⟩
    split <;> exact exec_of_guard rfl there
  | [] | [_] | [_, _] | [_, _, _] => rw [hv] at long; simp at long

/-- The dispatcher of length indications runs the row of the indication (45_upper_mac R237). -/
theorem exec_lengthInd (li : BitVec 6) {s : State} (header : s.hasResHeader = true) :
    exec (decodeLengthInd li) s = .next (lengthDispatch li s) := by
  unfold lengthDispatch decodeLengthInd
  split
  · exact exec_of_guard rfl header
  · split <;> exact exec_of_guard rfl header

theorem decodeTraining_burstInstr {ty : TrainType} (searched : Searched ty) {pat : Bits}
    (hpat : Config.tsq ty = some pat) : decode (.training pat) = .instr (burstInstr ty) := by
  have selector : encode (burstInstr ty) = .training ((Config.tsq ty).getD []) := by
    rcases searched with rfl | rfl | rfl <;> rfl
  have wellFormed : (burstInstr ty).wellFormed = true := by rcases searched with rfl | rfl | rfl <;> rfl
  rw [hpat, Option.getD_some] at selector
  rw [← selector, decodeEncodeAgree _ wellFormed]

/-- The dispatcher of generators runs the row of the code (44_crypto R216). -/
theorem exec_ksgCode (c : BitVec 8) (s : State) : exec (decodeKsg c) s = .next (ksgDispatch c s) := by
  unfold ksgDispatch
  rcases decodeKsg_cases c with ⟨hd, -⟩ | ⟨hd, -⟩ | ⟨hd, -⟩ | ⟨hd, -⟩ <;> (rw [hd]; rfl)

/-- Settles O7: each of the four dispatchers runs the row of its selector. -/
theorem pipelineSelectsByEncoding : Obligations.PipelineSelectsByEncoding :=
  ⟨fun _ there => exec_pduPrefix there, fun _ li header => ⟨_, rfl, exec_lengthInd li header⟩,
    fun _ _ _ whole searched hpat =>
      ⟨_, decodeTraining_burstInstr searched hpat, exec_burstInstr searched (of_decide_eq_true whole)⟩,
    fun s c => ⟨_, rfl, exec_ksgCode c s⟩⟩

/-! BROADCAST (45_upper_mac R233, R234). -/

theorem State.cryptoOnSysinfo_of_hn {f : Sysinfo} (flag : f.hfCckFlag = false) (s : State) :
    s.cryptoOnSysinfo f = { s with
      cs := { s.cs with
        cn := some f.mainCarrier, la := some f.locationArea, hn := some f.hfCckValue
        cck := getKsgKey s.db s.cs.network s.cs.cckId } } := by
  rw [State.cryptoOnSysinfo, flag]
  rfl

theorem State.cryptoOnSysinfo_of_cck {f : Sysinfo} (flag : f.hfCckFlag = true) (s : State) :
    s.cryptoOnSysinfo f = { s with
      cs := { s.cs with
        cn := some f.mainCarrier, la := some f.locationArea, cckId := some f.hfCckValue
        cck := getKsgKey s.db s.cs.network (some f.hfCckValue) } } := by
  rw [State.cryptoOnSysinfo, flag]
  rfl

/-- A whole SYSINFO PDU (45_upper_mac R234). -/
theorem broadcastSysinfo_of_whole {s : State} {f : Sysinfo} (whole : 124 ≤ s.pduRem) (hf : readSysinfo s.pduRest = f) :
    broadcastSysinfo s =
      (if f.hfCckFlag then (s.setSysinfo f).cryptoOnSysinfo f
       else ((s.setSysinfo f).cryptoOnSysinfo f).withTime (s.time.setHn f.hfCckValue)).consume .whole := by
  subst hf
  have time : ((s.setSysinfo (readSysinfo s.pduRest)).cryptoOnSysinfo (readSysinfo s.pduRest)).time = s.time := by
    unfold State.cryptoOnSysinfo
    split <;> rfl
  rw [← time]
  exact if_neg (Nat.not_lt.mpr whole)

/-- Settles O50: the fields are those of the layout table, and the flag tells what the value is for. -/
theorem broadcastPdus : Obligations.BroadcastPdus := by
  intro s b there v field f done
  have hf : readSysinfo s.pduRest = f := rfl
  have run : exec .broadcastSysinfo s = .next (broadcastSysinfo s) := exec_of_guard rfl there
  refine ⟨fun short => run.trans (congrArg _ (if_pos short)), fun whole flag => ?_, fun whole flag => ?_,
    exec_of_guard rfl there, exec_of_guard rfl there⟩
  · rw [run, broadcastSysinfo_of_whole whole hf, if_neg (Bool.eq_false_iff.mp flag), State.cryptoOnSysinfo_of_hn flag]
    rfl
  · rw [run, broadcastSysinfo_of_whole whole hf, if_pos flag, State.cryptoOnSysinfo_of_cck flag]
    rfl

/-! The header of a MAC-RESOURCE (45_upper_mac R235, R236). -/

/-- Settles O51: the branches of the header; behind it the length indication selects a row. -/
theorem resourceHeaderSelectsLength : Obligations.ResourceHeaderSelectsLength := by
  intro s there v field hdr done
  have run : exec .macResource s = .next (macResource s) := exec_of_guard rfl there
  refine ⟨rfl, fun null => run.trans (congrArg _ (if_pos null)), fun addressed short => ?_, fun addressed fits => ?_⟩
  · rw [run]
    exact congrArg _ ((if_neg addressed).trans (if_pos short))
  · have header : (s.setAddr (readAddr s.pduRest)).hasResHeader = true :=
      (State.hasResHeader_iff _).mpr ⟨there, fits⟩
    refine ⟨_, run.trans (congrArg _ ((if_neg addressed).trans (if_neg (Nat.not_lt.mpr fits)))), ?_⟩
    exact exec_lengthInd hdr.li header

/-! MAC-SUPPLEMENTARY (45_upper_mac R248). -/

/-- The offset of the TM-SDU: a slot granting element stands in front of it or not (30_encoding R98). -/
theorem supplementary_skip (v : Bits) :
    Config.supSduOff + (if readFlag Config.supSlotGranting v then Config.slotGrantingBits else 0) =
      if v.getD 17 false = true then 26 else 18 := by
  rw [show v.getD 17 false = readFlag Config.supSlotGranting v from rfl]
  split <;> rfl

/-- Settles O59: the header fits or not, and a PDU whose header fits is forwarded from its first bit. -/
theorem supplementaryForwarded : Obligations.SupplementaryForwarded := by
  intro s there skip done
  have run : exec .macSupplementary s = .next (macSupplementary s) := exec_of_guard rfl there
  rw [run, macSupplementary, supplementary_skip]
  refine ⟨fun short => congrArg _ ?_, fun header fits => congrArg _ ?_⟩
  · by_cases header : s.pduRem < 18
    · exact if_pos header
    · exact (if_neg header).trans (if_pos (short.resolve_left header))
  · exact (if_neg (Nat.not_lt.mpr header)).trans (if_neg (Nat.not_lt.mpr fits))

end Sys2Proof.Machine
end

section
/-! PROOFS. What the operations of the upper MAC leave of their operand (44_crypto R219, 45_upper_mac R231): the snapshot,
the CRC result, the place of the current PDU and the length of the block. -/

namespace Sys2Proof.Machine

/-- `t` has the operand of the upper MAC where `s` has it; the bits of the block can differ, by a decryption in place. -/
structure State.SameOperand (s t : State) : Prop where
  snap : t.work.snap = s.work.snap
  crcOk : t.work.crcOk = s.work.crcOk
  l1 : t.work.pdu.l1 = s.work.pdu.l1
  length : t.work.pdu.bits.length = s.work.pdu.bits.length

section
variable {s t u : State}

theorem State.SameOperand.of_work_eq (h : t.work = s.work) : s.SameOperand t :=
  ⟨congrArg Work.snap h, congrArg Work.crcOk h, congrArg (·.pdu.l1) h, congrArg (·.pdu.bits.length) h⟩

theorem State.SameOperand.refl (s : State) : s.SameOperand s := .of_work_eq rfl

theorem State.SameOperand.trans (h : s.SameOperand t) (k : t.SameOperand u) : s.SameOperand u :=
  ⟨k.snap.trans h.snap, k.crcOk.trans h.crcOk, k.l1.trans h.l1, k.length.trans h.length⟩

theorem State.SameOperand.snapTn (h : s.SameOperand t) : t.snapTn = s.snapTn := congrArg (·.time.tn) h.snap

theorem State.SameOperand.pduPos (h : s.SameOperand t) : t.pduPos = s.pduPos := congrArg (·.getD 0) h.l1

end

theorem State.consume_sameOperand (s : State) (c : Consumed) : s.SameOperand (s.consume c) := ⟨rfl, rfl, rfl, rfl⟩

/-! Fragment slots are no working registers (10_state R46). -/

@[simp] theorem State.fragDiscardStale_work (s : State) (tn : BitVec 3) : (s.fragDiscardStale tn).work = s.work := by
  rw [State.fragDiscardStale_eq]

@[simp] theorem State.fragOpen_work (s : State) (tn : BitVec 3) (sdu : Bits) (enc : Bool) (key : Option Nat) :
    (s.fragOpen tn sdu enc key).work = s.work := by
  rw [State.fragOpen_eq]
  split <;> rfl

@[simp] theorem State.fragAppend_work (s : State) (tn : BitVec 3) (p : Bits) : (s.fragAppend tn p).work = s.work := by
  rw [State.fragAppend_eq]
  split <;> rfl

@[simp] theorem State.fragFinalize_work (s : State) (tn : BitVec 3) : (s.fragFinalize tn).work = s.work := by
  rw [State.fragFinalize_eq]
  split <;> rfl

/-! Decryption in place (44_crypto R219). -/

/-- The keystream of a MAC element under `key`, if there is a key and a keystream. -/
def State.elementKeystream (s : State) (key : Option Nat) : Option Bits :=
  key.bind fun k => s.keystream k s.work.snap.time

/-- Wherever the part lies, XORing it keeps the length. -/
theorem xorSlice_length_eq (v : Bits) (a n : Nat) (ks : Bits) : (xorSlice v a n ks).length = v.length := by
  simp only [xorSlice, List.length_append, List.length_take, xorBits_length, slice_length, List.length_drop]
  omega

/-- A decryption writes working registers, of them the bits of the block only if there is a keystream, and reports what
generating the keystream reports. -/
theorem decryptMacElement_eq (key : Option Nat) (a n : Nat) (s : State) :
    ∃ w : Work, w.snap = s.work.snap ∧ w.crcOk = s.work.crcOk ∧
      w.pdu = { s.work.pdu with
        bits := (s.elementKeystream key).elim s.work.pdu.bits fun ks =>
          xorSlice s.work.pdu.bits a n (skipKs (s.work.snap.blkNum == 2) ks) } ∧
      decryptMacElement key a n s = ((s.elementKeystream key).isSome,
        ({ s with events := s.events ++ if key.isSome then s.ksgReport else [] } : State).withWork w) := by
  unfold decryptMacElement State.elementKeystream
  cases key with
  | none => exact ⟨s.work, rfl, rfl, rfl, by simp [State.withWork]⟩
  | some k =>
    obtain ⟨w, hks, hpdu, hsnap, hok, -, run⟩ := generateKeystream_frame k s
    dsimp only
    rw [run, State.withWork_work, hks, hpdu, hsnap, Option.isSome_some, if_pos rfl, Option.bind_some]
    cases generated : s.keystream k s.work.snap.time with
    | none => exact ⟨w, hsnap, hok, hpdu, rfl⟩
    | some ks =>
      rw [Option.getD_some, if_neg (State.keystream_ne_nil generated)]
      exact ⟨{ w with pdu := { w.pdu with
        bits := xorSlice s.work.pdu.bits a n (skipKs (s.work.snap.blkNum == 2) ks) } }, hsnap, hok,
        by rw [hpdu]; rfl, rfl⟩

theorem decryptMacElement_sameOperand (key : Option Nat) (a n : Nat) (s : State) :
    s.SameOperand (decryptMacElement key a n s).2 := by
  obtain ⟨w, hsnap, hok, hpdu, run⟩ := decryptMacElement_eq key a n s
  rw [run]
  refine ⟨hsnap, hok, (congrArg Pdu.l1 hpdu :), (congrArg (·.bits.length) hpdu).trans ?_⟩
  cases s.elementKeystream key with
  | none => rfl
  | some ks => exact xorSlice_length_eq ..

theorem State.ksgReport_diag {s : State} {x : Event} (h : x ∈ s.ksgReport) : ∃ c k, x = .diag c k := by
  unfold State.ksgReport at h
  split at h
  · split at h
    · nomatch h
    · exact ⟨_, _, List.mem_singleton.mp h⟩
  · nomatch h

/-- A decryption that fails leaves the PDU buffer as it was and only adds diagnostics (44_crypto R223). -/
theorem decryptMacElement_failed {key : Option Nat} {a n : Nat} {s u : State}
    (failed : decryptMacElement key a n s = (false, u)) :
    u.work.pdu = s.work.pdu ∧ u.frag = s.frag ∧
      ∃ ev, u.events = s.events ++ ev ∧ ∀ x ∈ ev, ∃ c k, x = Event.diag c k := by
  obtain ⟨w, -, -, hpdu, run⟩ := decryptMacElement_eq key a n s
  obtain ⟨hnone, rfl⟩ := Prod.mk.inj (run.symm.trans failed)
  rw [Option.isSome_eq_false_iff, Option.isNone_iff_eq_none] at hnone
  rw [hnone] at hpdu
  refine ⟨hpdu, rfl, _, rfl, fun x hx => ?_⟩
  split at hx
  · exact State.ksgReport_diag hx
  · nomatch hx

end Sys2Proof.Machine
end

section
/-! PROOFS. MAC-RESOURCE behind its header (45_upper_mac R237 to R244, R261): the lengths that end the block (O52), and the
three fates of the body, delivered (O53), kept in a fragment slot (O54) or dropped (O55). -/

namespace Sys2Proof.Machine

/-! Decryption and the body (45_upper_mac R238 to R241). -/

/-- `s` as the decryption of a MAC-RESOURCE of length indication `li` meets it: an encrypted start of fragmentation has
discarded a stale slot (45_upper_mac R238, R252). -/
def State.beforeDecrypt (s : State) (enc : BitVec 2) (li : BitVec 6) : State :=
  if li = 63 ∧ enc ≠ 0 then s.fragDiscardStale s.snapTn else s

section
variable {hdr : ResHeader} {li : BitVec 6} {h e : Nat} {s u : State} {ok dec : Bool}

theorem resourceDecrypt_of_encrypted (encrypted : hdr.enc ≠ 0)
    (run : decryptMacElement (s.beforeDecrypt hdr.enc li).cs.cck h (e - h) (s.beforeDecrypt hdr.enc li) = (ok, u)) :
    resourceDecrypt hdr (li == Config.liStartOfFragmentation) h e s =
      if ok then (some true, u) else (none, u.raise .eNoCrypto (hdr.enc.setWidth 32)) := by
  have start : (if li == Config.liStartOfFragmentation then s.fragDiscardStale s.snapTn else s) =
      s.beforeDecrypt hdr.enc li :=
    ite_congr (propext (beq_iff_eq.trans (and_iff_left encrypted).symm)) (fun _ => rfl) fun _ => rfl
  refine (if_neg encrypted).trans ?_
  dsimp only
  rw [start, run]
  cases ok <;> rfl

theorem resourceDecrypt_of_clears (clear : (s.beforeDecrypt hdr.enc li).Clears u hdr.enc h e dec) :
    resourceDecrypt hdr (li == Config.liStartOfFragmentation) h e s = (some dec, u) := by
  rcases clear with ⟨plain, rfl, rfl⟩ | ⟨encrypted, done, rfl⟩
  · rw [State.beforeDecrypt, if_neg fun start => start.2 plain]
    exact if_pos plain
  · exact resourceDecrypt_of_encrypted encrypted done

end

section
variable {hdr : ResHeader} {li : BitVec 6} {h e n q : Nat} {s u : State} {dec : Bool}
  (hh : h = s.pduPos + 16 + addrBits hdr.addrType) (he : e = s.pduPos + n)
include hh he

/-- A PDU that cannot be decrypted stays opaque (45_upper_mac R261). -/
theorem resourceBody_of_opaque (encrypted : hdr.enc ≠ 0)
    (failed : decryptMacElement (s.beforeDecrypt hdr.enc li).cs.cck h (e - h) (s.beforeDecrypt hdr.enc li) = (false, u)) :
    resourceBody hdr li n s = (none, u.raise .eNoCrypto (hdr.enc.setWidth 32)) := by
  subst hh he
  have run := resourceDecrypt_of_encrypted encrypted failed
  simp only [resourceBody, Config.resAddrOff, run]
  rfl

/-- Optional elements that run past the end of a clear PDU drop it (45_upper_mac R239). -/
theorem resourceBody_of_overrun (clear : (s.beforeDecrypt hdr.enc li).Clears u hdr.enc h e dec)
    (overrun : resourceElements u.work.pdu.bits h e = none) :
    resourceBody hdr li n s = (none, u.raise .wPduLen (li.setWidth 32)) := by
  subst hh he
  simp only [resourceBody, Config.resAddrOff, resourceDecrypt_of_clears clear, overrun]

/-- Behind the optional elements of a clear PDU its fill bits are stripped (45_upper_mac R241). -/
theorem resourceBody_of_clear (clear : (s.beforeDecrypt hdr.enc li).Clears u hdr.enc h e dec)
    (elements : resourceElements u.work.pdu.bits h e = some q) :
    resourceBody hdr li n s =
      (some { decrypted := dec, q := q, e := fillEnd hdr.fill u.work.pdu.bits q e },
        { u with events := u.events ++ fillReport hdr.fill u.work.pdu.bits q e u.snapTn }) := by
  subst hh he
  simp only [resourceBody, Config.resAddrOff, resourceDecrypt_of_clears clear, elements, stripFill_eq]

end

/-! The rows of the length indications (45_upper_mac R237). -/

/-- What the row of a length indication does with the body of its PDU: deliver it, with the flag of block 2 for a stolen
second half, or start a fragment slot with it; nothing if the PDU was dropped (45_upper_mac R242 to R244). -/
def bodyDone (i : Instr) (hdr : ResHeader) : Option Body × State → State
  | (none, s) => s
  | (some b, s) =>
    match i with
    | .liSecondHalfStolen => deliverResource hdr b s.setBlk2Stolen
    | .liStartOfFragmentation =>
      s.fragOpen s.snapTn (slice s.work.pdu.bits b.q (b.e - b.q)) b.decrypted (if b.decrypted then s.cs.cck else none)
    | _ => deliverResource hdr b s

/-- `s` behind the warning for a PDU that the block cuts short (45_upper_mac R237). -/
def State.clipped (s : State) (l : BitVec 6) : State :=
  if s.pduRem < 8 * l.toNat then s.raise .wPduLen (l.setWidth 32) else s

theorem State.clipped_eq_withEvents (s : State) (l : BitVec 6) : ∃ ev, s.clipped l = s.withEvents ev := by
  unfold State.clipped
  split
  · exact ⟨_, rfl⟩
  · exact ⟨s.events, rfl⟩

theorem lengthReserved_iff_zero (li : BitVec 6) : lengthReserved li = true ↔ li = 0 ∨ 34 < li.toNat := by
  rw [lengthReserved_iff, Nat.lt_one_iff, ← BitVec.toNat_inj]
  rfl

theorem liOctets_of_reserved {l : BitVec 6} (reserved : l = 0 ∨ 34 < l.toNat) (s : State) :
    liOctets l s = (s.raise .wPduLen (l.setWidth 32)).consume .whole :=
  if_pos ((lengthReserved_iff_zero l).mpr reserved)

theorem liOctets_of_length {l : BitVec 6} (length : ¬ (l = 0 ∨ 34 < l.toNat)) (s : State) :
    let n := min (8 * l.toNat) s.pduRem
    let hdr := readResHeader s.pduRest
    liOctets l s =
      if n < 16 + addrBits hdr.addrType + 3 then ((s.clipped l).raise .wPduLen (l.setWidth 32)).consume .whole
      else (bodyDone (.liOctets l) hdr (resourceBody hdr l n (s.clipped l))).consume (.bits n) := by
  intro n hdr
  refine (if_neg (mt (lengthReserved_iff_zero l).mp length)).trans ?_
  rw [clipLength_eq]
  refine ite_congr rfl (fun _ => rfl) fun _ => ?_
  unfold State.clipped
  match resourceBody hdr l n (if s.pduRem < 8 * l.toNat then s.raise .wPduLen (l.setWidth 32) else s) with
  | (none, _) => rfl
  | (some _, _) => rfl

theorem liSecondHalfStolen_eq (s : State) :
    let hdr := readResHeader s.pduRest
    liSecondHalfStolen s = (bodyDone .liSecondHalfStolen hdr (resourceBody hdr 62 s.pduRem s)).consume .whole := by
  intro hdr
  unfold liSecondHalfStolen Config.liSecondHalfStolen
  dsimp only
  match resourceBody hdr 62 s.pduRem s with
  | (none, _) => rfl
  | (some _, _) => rfl

theorem liStartOfFragmentation_eq (s : State) :
    let hdr := readResHeader s.pduRest
    liStartOfFragmentation s =
      (bodyDone .liStartOfFragmentation hdr (resourceBody hdr 63 s.pduRem s)).consume .whole := by
  intro hdr
  unfold liStartOfFragmentation Config.liStartOfFragmentation
  dsimp only
  match resourceBody hdr 63 s.pduRem s with
  | (none, _) => rfl
  | (some _, _) => rfl

/-- Settles O52: the two branches of the row in front of the body. -/
theorem badLengthEndsBlock : Obligations.BadLengthEndsBlock := by
  intro s l header n warn
  have run : exec (.liOctets l) s = .next (liOctets l s) := exec_of_guard rfl header
  refine ⟨fun reserved => ?_, fun nonzero inTable short => ?_⟩
  · rw [run, liOctets_of_reserved reserved]
    rfl
  · rw [run, liOctets_of_length (not_or.mpr ⟨nonzero, Nat.not_lt.mpr inTable⟩), if_pos short, State.clipped]
    split
    · rfl
    · rw [List.append_nil]
      rfl

theorem State.lengthCase_liOctets {s s0 : State} {l li : BitVec 6} {n : Nat} {ret : Consumed}
    (length : s.lengthCase (.liOctets l) = some (li, n, ret, s0)) :
    ¬ (l = 0 ∨ 34 < l.toNat) ∧ ¬ n < 16 + addrBits (readResHeader s.pduRest).addrType + 3 ∧
      l = li ∧ min (8 * l.toNat) s.pduRem = n ∧ .bits n = ret ∧ s.clipped l = s0 := by
  have accepted (m : Nat) :
      (if s.pduRem < 8 * l.toNat then some (l, m, Consumed.bits m, s.raise .wPduLen (l.setWidth 32))
        else some (l, m, .bits m, s)) = some (l, m, .bits m, s.clipped l) := by
    unfold State.clipped
    split <;> rfl
  unfold State.lengthCase at length
  dsimp only at length
  split at length
  next => nomatch length
  next good =>
    obtain ⟨nonzero, short, long⟩ := not_or.mp good |>.imp_right not_or.mp
    cases (accepted _).symm.trans length
    exact ⟨not_or.mpr ⟨nonzero, short⟩, long, rfl, rfl, rfl, rfl⟩

/-- A row with a length in `lengthCase` runs the body, on a state in which only a warning can have been added. -/
theorem exec_of_lengthCase {s s0 : State} {i : Instr} {li : BitVec 6} {n : Nat} {ret : Consumed}
    (header : s.hasResHeader = true) (length : s.lengthCase i = some (li, n, ret, s0)) :
    let hdr := readResHeader s.pduRest
    ∃ ev, (s.withEvents ev).beforeDecrypt hdr.enc li = s0 ∧
      exec i s = .next ((bodyDone i hdr (resourceBody hdr li n (s.withEvents ev))).consume ret) := by
  intro hdr
  cases i with
  | liOctets l =>
    obtain ⟨inTable, long, rfl, hn, rfl, rfl⟩ := State.lengthCase_liOctets length
    obtain ⟨ev, clipped⟩ := s.clipped_eq_withEvents l
    have noStart : l ≠ 63 := fun h => inTable (.inr (h ▸ by decide))
    refine ⟨ev, ?_, (exec_of_guard rfl header).trans (congrArg _ ?_)⟩
    · rw [State.beforeDecrypt, if_neg fun h => noStart h.1, clipped]
    · rw [liOctets_of_length inTable, hn, if_neg long, clipped]
  | liSecondHalfStolen =>
    obtain ⟨rfl, rfl, rfl, rfl⟩ : 62 = li ∧ s.pduRem = n ∧ .whole = ret ∧ s = s0 := by
      simpa [State.lengthCase] using length
    exact ⟨s.events, if_neg nofun, (exec_of_guard rfl header).trans (congrArg _ (liSecondHalfStolen_eq s))⟩
  | liStartOfFragmentation =>
    obtain ⟨rfl, rfl, rfl, rfl⟩ : 63 = li ∧ s.pduRem = n ∧ .whole = ret ∧
        (if hdr.enc = 0 then s else s.fragDiscardStale s.snapTn) = s0 := by
      simpa [State.lengthCase] using length
    refine ⟨s.events, ?_, (exec_of_guard rfl header).trans (congrArg _ (liStartOfFragmentation_eq s))⟩
    simp only [State.beforeDecrypt, ne_eq, true_and, ite_not]
    rfl
  | _ => nomatch length

/-! What the body leaves. -/

theorem State.Clears.frame {s u : State} {enc : BitVec 2} {h e : Nat} {dec : Bool} (clear : s.Clears u enc h e dec) :
    s.SameOperand u ∧ s.WorkOnly u := by
  rcases clear with ⟨-, rfl, -⟩ | ⟨-, done, -⟩
  · exact ⟨.refl u, .refl u⟩
  · have same := decryptMacElement_sameOperand s.cs.cck h (e - h) s
    have only := decryptMacElement_workOnly s.cs.cck h (e - h) s
    rw [done] at same only
    exact ⟨same, only⟩

theorem State.beforeDecrypt_frame (s : State) (enc : BitVec 2) (li : BitVec 6) :
    (s.beforeDecrypt enc li).work = s.work ∧ (s.beforeDecrypt enc li).mac = s.mac ∧
      (s.beforeDecrypt enc li).cs = s.cs := by
  rw [State.beforeDecrypt, State.fragDiscardStale_eq]
  split <;> exact ⟨rfl, rfl, rfl⟩

/-- A clear PDU has its operand where the row found it, and MAC and crypto registers as the row found them. -/
theorem clears_beforeDecrypt_frame {s u : State} {ev : List Event} {enc : BitVec 2} {li : BitVec 6} {h e : Nat} {dec : Bool}
    (clear : ((s.withEvents ev).beforeDecrypt enc li).Clears u enc h e dec) :
    s.SameOperand u ∧ u.mac = s.mac ∧ u.cs = s.cs := by
  obtain ⟨hwork, hmac, hcs⟩ := (s.withEvents ev).beforeDecrypt_frame enc li
  obtain ⟨same, w, ev', hu⟩ := clear.frame
  exact ⟨(State.SameOperand.of_work_eq (s := s) hwork).trans same, hu ▸ hmac, hu ▸ hcs⟩

/-- Delivery (45_upper_mac R242), the operand read where `s` has it. -/
theorem deliverResource_eq {s u : State} (same : s.SameOperand u) (haddr : u.mac.addr = s.mac.addr) (hdr : ResHeader)
    (b : Body) :
    deliverResource hdr b u = { u with
      work := { u.work with pdu := { u.work.pdu with l2 := some b.q } }
      events := u.events ++
        [.sduInd
          { snap := s.work.snap, kind := .resource, crcOk := s.work.crcOk, encMode := hdr.enc, decrypted := b.decrypted
            addr := s.mac.addr, bits := slice u.work.pdu.bits s.pduPos (b.e - s.pduPos)
            l2Off := b.q - s.pduPos }] } := by
  rw [deliverResource, same.snap, same.crcOk, same.pduPos, haddr]
  rfl

/-- The row of a clear PDU whose optional elements end inside it. -/
theorem exec_of_clear {s s0 u : State} {i : Instr} {li : BitVec 6} {n q : Nat} {ret : Consumed} {dec : Bool}
    (header : s.hasResHeader = true) (length : s.lengthCase i = some (li, n, ret, s0)) :
    let hdr := readResHeader s.pduRest
    let h := s.pduPos + 16 + addrBits hdr.addrType
    let e := s.pduPos + n
    s0.Clears u hdr.enc h e dec → resourceElements u.work.pdu.bits h e = some q →
    s.SameOperand u ∧ u.mac = s.mac ∧ u.cs = s.cs ∧
      exec i s = .next ((bodyDone i hdr
        (some { decrypted := dec, q := q, e := fillEnd hdr.fill u.work.pdu.bits q e },
          { u with events := u.events ++ fillReport hdr.fill u.work.pdu.bits q e s.snapTn })).consume ret) := by
  intro hdr h e clear elements
  obtain ⟨ev, rfl, run⟩ := exec_of_lengthCase header length
  obtain ⟨same, hmac, hcs⟩ := clears_beforeDecrypt_frame clear
  have body := resourceBody_of_clear (s := s.withEvents ev) rfl rfl clear elements
  rw [same.snapTn] at body
  rw [body] at run
  exact ⟨same, hmac, hcs, run⟩

/-- Settles O53: the widths of the elements, and the delivery of the body. -/
theorem resourcePduDelivered : Obligations.ResourcePduDelivered := by
  refine ⟨fun _ _ => chanAllocLen_eq_some_iff, fun _ _ _ _ => resourceElements_eq_some_iff, ?_⟩
  intro s s0 u i li n q ret dec header length hdr h e clear elements last after
  obtain ⟨same, hmac, -, run⟩ := exec_of_clear header length clear elements
  let warned : State := { u with events := u.events ++ fillReport hdr.fill u.work.pdu.bits q e s.snapTn }
  have there : s.SameOperand warned := same.trans (.of_work_eq rfl)
  have haddr : warned.mac.addr = s.mac.addr := congrArg Mac.addr hmac
  refine ⟨?_, ?_⟩
  · rintro l rfl
    have delivered := deliverResource_eq there haddr hdr { decrypted := dec, q := q, e := last }
    exact run.trans (congrArg (fun t => Host.Outcome.next (State.consume t ret)) delivered)
  · rintro rfl
    have delivered := deliverResource_eq (u := warned.setBlk2Stolen) (there.trans (.of_work_eq rfl)) haddr hdr
      { decrypted := dec, q := q, e := last }
    refine run.trans ((congrArg (fun t => Host.Outcome.next (State.consume t ret)) delivered).trans ?_)
    rw [State.setBlk2Stolen_mac, show warned.mac = s.mac from hmac]
    rfl

/-- Settles O54: the body opens the slot of the snapshot's timeslot. -/
theorem fragmentationStartOpensSlot : Obligations.FragmentationStartOpensSlot := by
  intro s s0 u li n q ret dec header length hdr h e clear elements warned sdu
  obtain ⟨same, -, hcs, run⟩ := exec_of_clear header length clear elements
  obtain rfl : Consumed.whole = ret := by cases length; rfl
  have opened : bodyDone .liStartOfFragmentation hdr
        (some { decrypted := dec, q := q, e := fillEnd hdr.fill u.work.pdu.bits q e }, warned) =
      warned.fragOpen s.snapTn sdu dec (if dec = true then s.cs.cck else none) := by
    rw [← hcs, ← same.snapTn]
    rfl
  refine run.trans (congrArg Host.Outcome.next ?_)
  rw [opened, State.consume, State.fragOpen_work]
  rfl

/-- Settles O55: the two ways to drop a body. -/
theorem undeliverablePduDropped : Obligations.UndeliverablePduDropped := by
  intro s s0 u i li n ret dec header length hdr h e
  obtain ⟨ev, rfl, run⟩ := exec_of_lengthCase header length
  refine ⟨fun encrypted failed => ?_, fun clear overrun => ?_⟩
  · obtain ⟨hpdu, hfrag, hev⟩ := decryptMacElement_failed failed
    rw [resourceBody_of_opaque (s := s.withEvents ev) rfl rfl encrypted failed] at run
    have hwork := (State.beforeDecrypt_frame (s.withEvents ev) hdr.enc li).1
    exact ⟨run, hpdu.trans (congrArg Work.pdu hwork), hfrag, hev⟩
  · rw [resourceBody_of_overrun (s := s.withEvents ev) rfl rfl clear overrun] at run
    exact run

end Sys2Proof.Machine
end

section
/-! PROOFS. MAC-FRAG and MAC-END (45_upper_mac R245 to R247): the decryption of a fragment, the continuation of a slot (O57)
and its end (O58). -/

namespace Sys2Proof.Machine

/-! Decryption of a fragment (45_upper_mac R245). -/

section
variable {s u : State} {q e : Nat}

theorem fragmentDecrypt_of_clears (clear : s.FragClears u q e) : fragmentDecrypt q e s = (true, u) := by
  rcases clear with ⟨plain, rfl⟩ | ⟨encrypted, done⟩
  · exact if_neg (Bool.eq_false_iff.mp plain)
  · refine (if_pos encrypted).trans ?_
    rw [done]

theorem fragmentDecrypt_of_failed (encrypted : (s.fragAt s.snapTn).encrypted = true)
    (failed : decryptMacElement (s.fragAt s.snapTn).key q (e - q) s = (false, u)) :
    fragmentDecrypt q e s = (false, (u.raise .eNoCrypto 1).fragCleanup s.snapTn) := by
  have same := decryptMacElement_sameOperand (s.fragAt s.snapTn).key q (e - q) s
  rw [failed] at same
  refine (if_pos encrypted).trans ?_
  rw [failed, ← same.snapTn]

theorem State.FragClears.sameOperand (clear : s.FragClears u q e) : s.SameOperand u := by
  rcases clear with ⟨-, rfl⟩ | ⟨-, done⟩
  · exact .refl u
  · have same := decryptMacElement_sameOperand (s.fragAt s.snapTn).key q (e - q) s
    rwa [done] at same

end

/-! MAC-FRAG (45_upper_mac R245, R247). -/

section
variable {s u : State} {q e : Nat} {fill : Bool} (active : (s.fragAt s.snapTn).active = true)
  (hq : q = s.pduPos + 4) (he : e = s.work.pdu.bits.length) (hfill : fill = s.pduRest.getD 3 false)
include active hq he

theorem macFrag_of_failed (encrypted : (s.fragAt s.snapTn).encrypted = true)
    (failed : decryptMacElement (s.fragAt s.snapTn).key q (e - q) s = (false, u)) :
    macFrag s = ((u.raise .eNoCrypto 1).fragCleanup s.snapTn).consume .whole := by
  subst hq he
  refine (if_pos active).trans ?_
  unfold Config.fragSduOff
  rw [fragmentDecrypt_of_failed encrypted failed]

include hfill

/-- The bits that continue a slot are those to the end of the block, fill bits stripped. -/
theorem macFrag_of_clears (clear : s.FragClears u q e) :
    macFrag s =
      (({ u with events := u.events ++ fillReport fill u.work.pdu.bits q e s.snapTn } : State).fragAppend s.snapTn
        (slice u.work.pdu.bits q (fillEnd fill u.work.pdu.bits q e - q))).consume .whole := by
  subst hq he hfill
  refine (if_pos active).trans ?_
  unfold Config.fragSduOff
  rw [fragmentDecrypt_of_clears clear]
  dsimp only
  rw [stripFill_eq, ← clear.sameOperand.snapTn]
  rfl

end

/-- Settles O57: the branches of the row. -/
theorem macFragContinuesSlot : Obligations.MacFragContinuesSlot := by
  intro s u there f fill q e
  have run : exec .macFrag s = .next (macFrag s) := exec_of_guard rfl there
  refine ⟨fun inactive => ?_, fun active clear => ?_, fun active encrypted failed => ?_⟩
  · exact run.trans (congrArg Host.Outcome.next (if_neg (Bool.eq_false_iff.mp inactive)))
  · rw [run, macFrag_of_clears active rfl rfl rfl clear, State.consume, State.fragAppend_work]
    rfl
  · rw [run, macFrag_of_failed active rfl rfl encrypted failed]
    rfl

/-! MAC-END (45_upper_mac R246, R247). -/

theorem macEnd_of_reserved {s : State} {li : BitVec 6} (hli : li = BitVec.ofNat 6 (uint (slice s.pduRest 5 6)))
    (reserved : li = 0 ∨ 34 < li.toNat) : macEnd s = (s.raise .wPduLen (li.setWidth 32)).consume .whole := by
  subst hli
  exact if_pos ((lengthReserved_iff_zero _).mpr reserved)

theorem macEnd_of_length {s s0 : State} {li : BitVec 6} {n : Nat}
    (hli : BitVec.ofNat 6 (uint (slice s.pduRest 5 6)) = li) (hn : min (8 * li.toNat) s.pduRem = n)
    (hs0 : s.clipped li = s0) (length : ¬ (li = 0 ∨ 34 < li.toNat)) :
    macEnd s =
      if n < 16 then (s0.raise .wPduLen (li.setWidth 32)).consume .whole
      else if (s.fragAt s.snapTn).active then (endBody (s.pduRest.getD 3 false) li n s0).consume (.bits n)
      else (s0.raise .wFragNoSlot (s.snapTn.setWidth 32)).consume (.bits n) := by
  obtain ⟨ev, rfl⟩ : ∃ ev, s0 = s.withEvents ev := hs0 ▸ s.clipped_eq_withEvents li
  have clip : clipLength li s = (n, s.withEvents ev) := (clipLength_eq li s).trans (by rw [hn, ← hs0]; rfl)
  subst hli
  refine (if_neg (mt (lengthReserved_iff_zero _).mp length)).trans ?_
  rw [show readField 6 Config.endLengthInd s.pduRest = BitVec.ofNat 6 (uint (slice s.pduRest 5 6)) from rfl, clip]
  rfl

section
variable {s u : State} {li : BitVec 6} {h e n : Nat} {fill : Bool} (hh : h = s.pduPos + 11) (he : e = s.pduPos + n)
include hh he

theorem endBody_of_failed (encrypted : (s.fragAt s.snapTn).encrypted = true)
    (failed : decryptMacElement (s.fragAt s.snapTn).key h (e - h) s = (false, u)) :
    endBody fill li n s = (u.raise .eNoCrypto 1).fragCleanup s.snapTn := by
  subst hh he
  unfold endBody Config.endElementsOff
  dsimp only
  rw [fragmentDecrypt_of_failed encrypted failed]

theorem endBody_of_overrun (clear : s.FragClears u h e) (overrun : endElements u.work.pdu.bits h e = none) :
    endBody fill li n s = (u.raise .wPduLen (li.setWidth 32)).fragCleanup s.snapTn := by
  subst hh he
  unfold endBody Config.endElementsOff
  dsimp only
  rw [fragmentDecrypt_of_clears clear]
  dsimp only
  rw [overrun, ← clear.sameOperand.snapTn]

/-- The last fragment is appended, fill bits stripped, and the message delivered. -/
theorem endBody_of_clears {q : Nat} (clear : s.FragClears u h e)
    (elements : endElements u.work.pdu.bits h e = some q) :
    endBody fill li n s =
      (({ u with events := u.events ++ fillReport fill u.work.pdu.bits q e s.snapTn } : State).fragAppend s.snapTn
        (slice u.work.pdu.bits q (fillEnd fill u.work.pdu.bits q e - q))).fragFinalize s.snapTn := by
  subst hh he
  unfold endBody Config.endElementsOff
  dsimp only
  rw [fragmentDecrypt_of_clears clear]
  dsimp only
  rw [elements]
  dsimp only
  rw [stripFill_eq, ← clear.sameOperand.snapTn]
  rfl

end

/-- Settles O58: the branches of the row, and on an active slot those of the body. -/
theorem macEndFinalizesSlot : Obligations.MacEndFinalizesSlot := by
  refine ⟨fun _ _ _ _ => endElements_eq_some_iff, ?_⟩
  intro s u there li fill warn n s0 f h e ret
  have run : exec .macEnd s = .next (macEnd s) := exec_of_guard rfl there
  have body (nonzero : li ≠ 0) (le : li.toNat ≤ 34) := macEnd_of_length (s := s) (s0 := s0) (n := n) rfl rfl rfl
    (not_or.mpr ⟨nonzero, Nat.not_lt.mpr le⟩)
  obtain ⟨ev, clipped⟩ : ∃ ev, s0 = s.withEvents ev := s.clipped_eq_withEvents li
  clear_value s0
  subst clipped
  refine ⟨fun reserved => ?_, fun nonzero le short => ?_, fun nonzero le long =>
    ⟨fun inactive => ?_, fun active encrypted failed => ?_, fun active clear overrun => ?_,
      fun q active clear elements => ?_⟩⟩
  · rw [run, macEnd_of_reserved rfl reserved]
    rfl
  · rw [run, body nonzero le, if_pos short]
    rfl
  all_goals rw [run, body nonzero le, if_neg (Nat.not_lt.mpr long)]
  · rw [if_neg (Bool.eq_false_iff.mp inactive)]
    rfl
  · rw [if_pos active, endBody_of_failed (s := s.withEvents ev) rfl rfl encrypted failed]
    rfl
  · rw [if_pos active, endBody_of_overrun (s := s.withEvents ev) rfl rfl clear overrun]
    rfl
  · rw [if_pos active, endBody_of_clears (s := s.withEvents ev) rfl rfl clear elements, State.consume,
      State.fragFinalize_work, State.fragAppend_work]
    rfl

end Sys2Proof.Machine
end

section
/-! PROOFS. The PDU loop (45_upper_mac R230, R231): every handler leaves the operand of the next one and takes at least 16
bits, so that the loop is determined by its equations (O27). -/

namespace Sys2Proof.Machine

theorem State.withEvents_sameOperand (s : State) (ev : List Event) : s.SameOperand (s.withEvents ev) := .of_work_eq rfl

theorem State.withMac_sameOperand (s : State) (m : Mac) : s.SameOperand (s.withMac m) := .of_work_eq rfl

/-- `t` is a handler's result on `s`: the operand is where it was, and the handler took the rest of the block or at least
16 bits (45_upper_mac R231). -/
structure State.Handled (s t : State) : Prop where
  same : s.SameOperand t
  took : ∀ n, t.work.consumed = .bits n → 16 ≤ n

section
variable {s t : State}

theorem State.Handled.whole (h : s.SameOperand t) : s.Handled (t.consume .whole) :=
  ⟨h.trans (t.consume_sameOperand _), nofun⟩

theorem State.Handled.bits (h : s.SameOperand t) {n : Nat} (hn : 16 ≤ n) : s.Handled (t.consume (.bits n)) :=
  ⟨h.trans (t.consume_sameOperand _), fun _ hm => Consumed.bits.inj hm ▸ hn⟩

end

/-! MAC-RESOURCE. -/

theorem State.clears_or_failed (s : State) (enc : BitVec 2) (h e : Nat) :
    (∃ u dec, s.Clears u enc h e dec) ∨
      (enc ≠ 0 ∧ ∃ u, decryptMacElement s.cs.cck h (e - h) s = (false, u)) := by
  by_cases plain : enc = 0
  · exact .inl ⟨s, false, .inl ⟨plain, rfl, rfl⟩⟩
  · match run : decryptMacElement s.cs.cck h (e - h) s with
    | (true, u) => exact .inl ⟨u, true, .inr ⟨plain, run, rfl⟩⟩
    | (false, u) => exact .inr ⟨plain, u, rfl⟩

theorem resourceBody_sameOperand (hdr : ResHeader) (li : BitVec 6) (n : Nat) (s : State) :
    s.SameOperand (resourceBody hdr li n s).2 := by
  have before : s.SameOperand (s.beforeDecrypt hdr.enc li) := .of_work_eq (s.beforeDecrypt_frame hdr.enc li).1
  rcases (s.beforeDecrypt hdr.enc li).clears_or_failed hdr.enc (s.pduPos + 16 + addrBits hdr.addrType) (s.pduPos + n)
    with ⟨u, dec, clear⟩ | ⟨encrypted, u, failed⟩
  · have same := before.trans clear.frame.1
    cases elements : resourceElements u.work.pdu.bits (s.pduPos + 16 + addrBits hdr.addrType) (s.pduPos + n) with
    | none =>
      rw [resourceBody_of_overrun rfl rfl clear elements]
      exact same.trans (.of_work_eq rfl)
    | some q =>
      rw [resourceBody_of_clear rfl rfl clear elements]
      exact same.trans (.of_work_eq rfl)
  · have same := decryptMacElement_sameOperand (s.beforeDecrypt hdr.enc li).cs.cck (s.pduPos + 16 + addrBits hdr.addrType)
      (s.pduPos + n - (s.pduPos + 16 + addrBits hdr.addrType)) (s.beforeDecrypt hdr.enc li)
    rw [failed] at same
    rw [resourceBody_of_opaque rfl rfl encrypted failed]
    exact before.trans (same.trans (.of_work_eq rfl))

theorem bodyDone_sameOperand (i : Instr) (hdr : ResHeader) (r : Option Body × State) :
    r.2.SameOperand (bodyDone i hdr r) := by
  unfold bodyDone
  split
  · exact .refl _
  · split
    · exact ⟨rfl, rfl, rfl, rfl⟩
    · exact .of_work_eq (State.fragOpen_work ..)
    · exact ⟨rfl, rfl, rfl, rfl⟩

theorem liOctets_handled (l : BitVec 6) (s : State) : s.Handled (liOctets l s) := by
  by_cases reserved : l = 0 ∨ 34 < l.toNat
  · rw [liOctets_of_reserved reserved]
    exact .whole (.of_work_eq rfl)
  · obtain ⟨ev, clipped⟩ := s.clipped_eq_withEvents l
    rw [liOctets_of_length reserved, clipped]
    split
    · exact .whole (.of_work_eq rfl)
    next long =>
      have body := resourceBody_sameOperand (readResHeader s.pduRest) l (min (8 * l.toNat) s.pduRem) (s.withEvents ev)
      refine .bits ((s.withEvents_sameOperand ev).trans (body.trans (bodyDone_sameOperand ..))) ?_
      omega

theorem lengthDispatch_handled (li : BitVec 6) (s : State) : s.Handled (lengthDispatch li s) := by
  unfold lengthDispatch
  split
  · exact liOctets_handled _ s
  · rw [liSecondHalfStolen_eq]
    exact .whole ((resourceBody_sameOperand ..).trans (bodyDone_sameOperand ..))
  · rw [liStartOfFragmentation_eq]
    exact .whole ((resourceBody_sameOperand ..).trans (bodyDone_sameOperand ..))
  · exact .whole (.refl s)

theorem macResource_handled (s : State) : s.Handled (macResource s) := by
  unfold macResource
  dsimp only
  split
  · exact .whole (.refl s)
  · split
    · exact .whole (.of_work_eq rfl)
    · have run := lengthDispatch_handled (readResHeader s.pduRest).li (s.setAddr (readAddr s.pduRest))
      exact ⟨(s.withMac_sameOperand _).trans run.same, run.took⟩

/-! MAC-FRAG and MAC-END. -/

theorem fragmentDecrypt_sameOperand (q e : Nat) (s : State) : s.SameOperand (fragmentDecrypt q e s).2 := by
  have same := decryptMacElement_sameOperand (s.fragAt s.snapTn).key q (e - q) s
  unfold fragmentDecrypt
  dsimp only
  split
  · split
    next run =>
      rw [run] at same
      exact same
    next run =>
      rw [run] at same
      exact same.trans (.of_work_eq rfl)
  · exact .refl s

theorem macFrag_handled (s : State) : s.Handled (macFrag s) := by
  unfold macFrag
  dsimp only
  split
  · have same := fragmentDecrypt_sameOperand (s.pduPos + Config.fragSduOff) s.work.pdu.bits.length s
    split
    next run =>
      rw [run] at same
      exact .whole same
    next run =>
      rw [run] at same
      rw [stripFill_eq]
      exact .whole (same.trans (.of_work_eq (State.fragAppend_work ..)))
  · exact .whole (.of_work_eq rfl)

theorem endBody_sameOperand (fill : Bool) (li : BitVec 6) (n : Nat) (s : State) : s.SameOperand (endBody fill li n s) := by
  have same := fragmentDecrypt_sameOperand (s.pduPos + Config.endElementsOff) (s.pduPos + n) s
  unfold endBody
  dsimp only
  split
  next run =>
    rw [run] at same
    exact same
  next run =>
    rw [run] at same
    split
    · exact same.trans (.of_work_eq rfl)
    · rw [stripFill_eq]
      exact same.trans (.of_work_eq ((State.fragFinalize_work ..).trans (State.fragAppend_work ..)))

theorem macEnd_handled (s : State) : s.Handled (macEnd s) := by
  by_cases reserved :
      BitVec.ofNat 6 (uint (slice s.pduRest 5 6)) = 0 ∨ 34 < (BitVec.ofNat 6 (uint (slice s.pduRest 5 6))).toNat
  · rw [macEnd_of_reserved rfl reserved]
    exact .whole (.of_work_eq rfl)
  · obtain ⟨ev, clipped⟩ := s.clipped_eq_withEvents (BitVec.ofNat 6 (uint (slice s.pduRest 5 6)))
    rw [macEnd_of_length rfl rfl clipped reserved]
    split
    · exact .whole (.of_work_eq rfl)
    next long =>
      split
      · exact .bits ((s.withEvents_sameOperand ev).trans (endBody_sameOperand ..)) (Nat.not_lt.mp long)
      · exact .bits (s.withEvents_sameOperand _) (Nat.not_lt.mp long)

/-! The other handlers, and the dispatcher. -/

theorem broadcastSysinfo_handled (s : State) : s.Handled (broadcastSysinfo s) := by
  unfold broadcastSysinfo State.cryptoOnSysinfo
  dsimp only
  split
  · exact .whole (.of_work_eq rfl)
  · split <;> exact .whole (.of_work_eq rfl)

theorem macSupplementary_handled (s : State) : s.Handled (macSupplementary s) := by
  rw [macSupplementary, supplementary_skip]
  dsimp only
  split
  · exact .whole (.of_work_eq rfl)
  · generalize (if s.pduRest.getD 17 false = true then 26 else 18) = skip
    split <;> exact .whole (.of_work_eq rfl)

theorem umacPdu_handled (s : State) : s.Handled (umacPdu s) := by
  unfold umacPdu
  split
  · exact macResource_handled s
  · exact macFrag_handled s
  · exact macEnd_handled s
  · exact broadcastSysinfo_handled s
  · exact .whole (.refl s)
  · exact .whole (.refl s)
  · exact macSupplementary_handled s
  · exact .whole (.refl s)

/-! The loop. -/

theorem umacLoop_of_short {pos : Nat} {s : State} (short : s.work.pdu.bits.length < pos + 16) (fuel : Nat) :
    umacLoop fuel pos s = s := by
  cases fuel with
  | zero => rfl
  | succ fuel => exact if_pos short

section
variable {pos : Nat} {s t : State} (long : pos + 16 ≤ s.work.pdu.bits.length) (run : umacPdu (s.setL1 pos) = t)
include long run

theorem umacLoop_of_whole (whole : t.work.consumed = .whole) (fuel : Nat) : umacLoop (fuel + 1) pos s = t := by
  refine (if_neg (Nat.not_lt.mpr long)).trans ?_
  dsimp only
  rw [run, whole]

theorem umacLoop_of_bits {c : Nat} (took : t.work.consumed = .bits c) (fuel : Nat) :
    umacLoop (fuel + 1) pos s = umacLoop fuel (pos + c) t := by
  refine (if_neg (Nat.not_lt.mpr long)).trans ?_
  dsimp only
  rw [run, took]

end

/-- One round of fuel for each bit from `pos` on is enough (log 25). -/
theorem umacLoop_succ {fuel pos : Nat} {s : State} (enough : s.work.pdu.bits.length ≤ pos + fuel) :
    umacLoop (fuel + 1) pos s = umacLoop fuel pos s := by
  induction fuel generalizing pos s with
  | zero => exact umacLoop_of_short (by omega) _
  | succ fuel ih =>
    by_cases short : s.work.pdu.bits.length < pos + 16
    · rw [umacLoop_of_short short, umacLoop_of_short short]
    · have long := Nat.not_lt.mp short
      have handled := umacPdu_handled (s.setL1 pos)
      cases took : (umacPdu (s.setL1 pos)).work.consumed with
      | whole => rw [umacLoop_of_whole long rfl took, umacLoop_of_whole long rfl took]
      | bits c =>
        have hc := handled.took c took
        have hlen : (umacPdu (s.setL1 pos)).work.pdu.bits.length = s.work.pdu.bits.length := handled.same.length
        rw [umacLoop_of_bits long rfl took, umacLoop_of_bits long rfl took, ih (by omega)]

/-- The loop with as much fuel as the block has bits (45_upper_mac R231). -/
def pduLoop (pos : Nat) (s : State) : State := umacLoop s.work.pdu.bits.length pos s

section
variable {pos : Nat} {s t : State} (long : pos + 16 ≤ s.work.pdu.bits.length) (run : umacPdu (s.setL1 pos) = t)
include long run

theorem pduLoop_of_whole (whole : t.work.consumed = .whole) : pduLoop pos s = t := by
  obtain ⟨fuel, hfuel⟩ : ∃ fuel, s.work.pdu.bits.length = fuel + 1 := Nat.exists_eq_add_of_le' (by omega)
  rw [pduLoop, hfuel, umacLoop_of_whole long run whole]

theorem pduLoop_of_bits {c : Nat} (hlen : t.work.pdu.bits.length = s.work.pdu.bits.length)
    (took : t.work.consumed = .bits c) (positive : 1 ≤ c) : pduLoop pos s = pduLoop (pos + c) t := by
  obtain ⟨fuel, hfuel⟩ : ∃ fuel, s.work.pdu.bits.length = fuel + 1 := Nat.exists_eq_add_of_le' (by omega)
  rw [pduLoop, pduLoop, hlen, hfuel, umacLoop_of_bits long run took, umacLoop_succ (by omega)]

end

/-- Settles O27: the equations of the loop, with the row that each PDU selects. -/
theorem handlersTakeSixteenBits : Obligations.HandlersTakeSixteenBits := by
  refine ⟨fun s n _ took => (umacPdu_handled s).took n took, pduLoop, fun pos s short => umacLoop_of_short short _,
    fun pos s long => ?_, fun _ _ _ => rfl⟩
  have there : (s.setL1 pos).hasPdu = true := decide_eq_true long
  have handled := umacPdu_handled (s.setL1 pos)
  obtain ⟨i, selected, run⟩ := exec_pduPrefix there
  refine ⟨i, _, selected, run, handled.same.length, fun whole => pduLoop_of_whole long rfl whole, fun c took => ?_⟩
  have atLeast := handled.took c took
  exact ⟨atLeast, pduLoop_of_bits long rfl handled.same.length took (by omega)⟩

end Sys2Proof.Machine
end

section
/-! PROOFS. Host commands (46_host_commands): one step of the command port (R270, R277, O5, O6), `NOP` and `RESET` (R271,
R273, O9), the table loads (R274, R275, O10) and the table lock (R276, O11). -/

namespace Sys2Proof.Machine

/-! The command port (46_host_commands R270, R277). -/

theorem step_of_empty {s : State} (h : s.port = []) : step s = .next s := by
  simp only [step, fetch, h]

/-- Settles O5: `fetch` takes the word off and empties the event list, or finds nothing. -/
theorem stepRunsDecodedWord : Obligations.StepRunsDecodedWord :=
  ⟨fun _ _ _ _ hport hd => step_of_instr hport hd, fun _ => step_of_empty⟩

/-- Settles O6: a legal word selects a host command, which always goes on and leaves the port alone; an illegal word only
reports itself. -/
theorem noCommandStopsTheCore : Obligations.NoCommandStopsTheCore := by
  intro s w rest hport
  cases hd : decode (.command w) with
  | instr i =>
    obtain ⟨t, ht, -⟩ := exec_command_next (rowSpace_of_decode_command hd) ((s.withPort rest).withEvents [])
    exact ⟨t, (step_of_instr hport hd).trans ht, exec_port ht⟩
  | reject r => exact ⟨_, step_of_reject hport hd, rfl⟩

/-! `NOP` and `RESET` (46_host_commands R271, R273). -/

/-- All that `RESET` leaves of `s` is the model's own fields, the port and the event list (log 24). -/
theorem exec_reset (s : State) : exec .reset s = .next { State.reset with port := s.port, events := s.events } := rfl

/-- Settles O9: every group of the state behind `RESET` is a field of the reset state, whose tables are unlocked. -/
theorem nopAndResetCommands : Obligations.NopAndResetCommands := fun s =>
  ⟨rfl, _, exec_reset s, rfl, rfl, rfl, rfl, rfl, rfl, rfl, rfl, rfl⟩

/-! The table loads (46_host_commands R274, R275). -/

/-- The three branches of a table load, in the order of the checks: the lock, then the capacity. -/
theorem load_branches {i : Instr} {s u : State} {n cap : Nat} {code : BitVec 32}
    (run : exec i s = if s.db.locked then .next (s.raise .eDbLocked code)
      else if n = cap then .next (s.raise .eResource code)
      else .next u) :
    (s.db.locked = true → exec i s = .next (s.raise .eDbLocked code)) ∧
    (s.db.locked = false → n = cap → exec i s = .next (s.raise .eResource code)) ∧
    (s.db.locked = false → n ≠ cap → exec i s = .next u) := by
  rw [run]
  refine ⟨fun locked => if_pos locked, fun unlocked full => ?_, fun unlocked room => ?_⟩
  · rw [unlocked, if_neg Bool.false_ne_true, if_pos full]
  · rw [unlocked, if_neg Bool.false_ne_true, if_neg room]

/-- Settles O10: both loads have these branches, each with its own table, entry and opcode. -/
theorem loadsAppendEntries : Obligations.LoadsAppendEntries :=
  ⟨fun _ _ _ _ _ => load_branches rfl, fun _ _ _ _ _ _ _ => load_branches rfl⟩

/-! The table lock (46_host_commands R276). -/

/-- `PUSH_BIT` locks the tables before the data path runs, and the data path leaves them alone. -/
theorem exec_pushBit_db {s t : State} {b : Bool} (h : exec (.pushBit b) s = .next t) :
    t.db = { s.db with locked := true } := by
  obtain ⟨u, hu, -, hdb, -⟩ := pushBitAdvancesPosition s b
  obtain rfl : u = t := Host.Outcome.next.inj (hu.symm.trans h)
  exact hdb

theorem Db.lock_eq_self {d : Db} (locked : d.locked = true) : { d with locked := true } = d := by
  rw [← locked]

/-- No instruction but `RESET` and `PUSH_BIT` writes the lock: a load appends an entry only. -/
theorem exec_locked_unchanged {i : Instr} {s t : State} (h : exec i s = .next t) (hreset : i ≠ .reset)
    (hpush : ∀ b, i ≠ .pushBit b) : t.db.locked = s.db.locked := by
  cases exec_effect h with
  | preserving kept => exact congrArg Db.locked kept.db
  | reset => exact absurd rfl hreset
  | pushBit b => exact absurd rfl (hpush b)
  | appendNet | appendKey => rfl

/-- Locked tables are read-only: a load goes through only while they are unlocked, and locking them again is no change. -/
theorem exec_db_unchanged_of_locked {i : Instr} {s t : State} (h : exec i s = .next t) (hreset : i ≠ .reset)
    (locked : s.db.locked = true) : t.db = s.db := by
  cases exec_effect h with
  | preserving kept => exact kept.db
  | reset => exact absurd rfl hreset
  | pushBit b => exact (exec_pushBit_db h).trans (Db.lock_eq_self locked)
  | appendNet _ unlocked | appendKey _ unlocked => exact nomatch locked.symm.trans unlocked

/-- Settles O11, over the effects an instruction can have on the tables. -/
theorem lockedTablesReadOnly : Obligations.LockedTablesReadOnly := by
  intro s t
  refine ⟨fun _ => exec_pushBit_db, fun _ => exec_locked_unchanged, fun _ => exec_db_unchanged_of_locked, fun h => ?_⟩
  obtain rfl := Host.Outcome.next.inj ((exec_reset s).symm.trans h)
  rfl

end Sys2Proof.Machine
end
